-- ==== Sys2Proof/Word.lean ====
section
/-!
DEFINITION. The fixed-width words of the command port and the finite-map operand.

Every other value of the block is a natural number of unbounded width (00_scope.md R9): only the
operation code and the status code have a width of their own (30_encoding.md R88).
-/

namespace Sys2Proof

/-- The 5-bit operation code of a command (30_encoding.md R88, R90). -/
abbrev OpCode := BitVec 5

/-- The 4-bit status code of a response (30_encoding.md R88, R91). -/
abbrev StatusCode := BitVec 4

/-- A finite map from naturals to naturals, as the pairs (key, value) that make it up
(30_encoding.md R88, `map`). -/
abbrev PageMap := List (Nat × Nat)

end Sys2Proof
end

