-- ==== Sys2Proof/Syntax.lean ====
section
/-!
DEFINITION. The commands of the host port and the operations they stand for: one constructor of
`Instr` for each row of spec/opcode_table.json (30_encoding.md R90).
-/

namespace Sys2Proof

/-- A command as the port carries it (30_encoding.md R88): the operation code, three natural
operands and the map operand. Operands an operation does not use are ignored. -/
structure Command where
  op : OpCode
  arg0 : Nat := 0
  arg1 : Nat := 0
  arg2 : Nat := 0
  map : PageMap := []
deriving DecidableEq, Repr

/-- The 17 operations of 30_encoding.md R90, operands in the order R90 lists them. -/
inductive Instr where
  /-- CONSTRUCT `V, P, S, initial_entries` (45_host_interface.md R160). -/
  | construct (v p s : Nat) (init : PageMap)
  /-- TRANSLATE `va` (44_translator.md R150). -/
  | translate (va : Nat)
  /-- PACK `frame, present` (40_codec.md R110). -/
  | pack (frame : Nat) (present : Bool)
  /-- UNPACK `entry` (40_codec.md R112). -/
  | unpack (entry : Nat)
  /-- FMTBIN `value, width` (40_codec.md R114). -/
  | fmtbin (value width : Nat)
  /-- SPLIT `va` (44_translator.md R145). -/
  | split (va : Nat)
  /-- COMPOSE `frame, offset` (44_translator.md R147). -/
  | compose (frame offset : Nat)
  /-- PTGET `page_number` (41_page_table.md R123). -/
  | ptget (page : Nat)
  /-- FINDFREE (42_frame_allocator.md R130). -/
  | findfree
  /-- SELVICT (43_lfu.md R135). -/
  | selvict
  /-- RDCNT `page_number` (45_host_interface.md R166). -/
  | rdcnt (page : Nat)
  /-- RDFS `frame` (45_host_interface.md R167). -/
  | rdfs (frame : Nat)
  /-- RDREG `sel` (45_host_interface.md R168). -/
  | rdreg (sel : Nat)
  /-- SNAPSHOT (45_host_interface.md R169). -/
  | snapshot
  /-- PTBUILD `page_count, entry_bits, initial_entries`, internal (41_page_table.md R120). -/
  | ptbuild (pageCount entryBits : Nat) (init : PageMap)
  /-- PTSET `page_number, entry`, internal (41_page_table.md R125). -/
  | ptset (page entry : Nat)
  /-- EVICT `victim_page, incoming_page`, internal (43_lfu.md R138). -/
  | evict (victim incoming : Nat)
deriving DecidableEq, Repr

end Sys2Proof
end

