-- ==== Sys2Proof/WellFormed.lean ====
section
/-!
DEFINITION. When an instruction is well formed. The one check is that a map operand is a finite
map in its canonical form: keys unique (30_encoding.md R88, 92_eei_decisions.md D22), written in
increasing order, so that equal maps are equal data.
-/

namespace Sys2Proof

/-- The keys of the map are strictly increasing, hence unique (D22). -/
abbrev PageMap.Ascending (m : PageMap) : Prop :=
  m.Pairwise fun a b => a.1 < b.1

/-- An instruction is well formed when its map operand, if it has one, is in canonical form.
Every other operand is any natural number (30_encoding.md R89: "Operands are taken as they are"). -/
def Instr.wf : Instr → Bool
  | .construct _ _ _ init => decide init.Ascending
  | .translate _ => true
  | .pack _ _ => true
  | .unpack _ => true
  | .fmtbin _ _ => true
  | .split _ => true
  | .compose _ _ => true
  | .ptget _ => true
  | .findfree => true
  | .selvict => true
  | .rdcnt _ => true
  | .rdfs _ => true
  | .rdreg _ => true
  | .snapshot => true
  | .ptbuild _ _ init => decide init.Ascending
  | .ptset _ _ => true
  | .evict _ _ => true

end Sys2Proof
end

