-- ==== Sys2Proof/Decode.lean ====
section
/-!
DEFINITION. The operation codes of 30_encoding.md R90, the decoder of a command (total, rejecting
by name) and the encoder beside it.
-/

namespace Sys2Proof

/-- Put one pair into a map in canonical form; a pair already there for the key is replaced. -/
def PageMap.put (p e : Nat) : PageMap → PageMap
  | [] => [(p, e)]
  | (q, d) :: m =>
    if p < q then (p, e) :: (q, d) :: m
    else if p = q then (p, e) :: m
    else (q, d) :: PageMap.put p e m

/-- The finite map that a stream of pairs stands for, in canonical form: "applies them in order,
the last pair for a page winning" (92_eei_decisions.md D22; assumption log 5). -/
def PageMap.canon (m : PageMap) : PageMap :=
  m.foldl (fun acc pe => PageMap.put pe.1 pe.2 acc) []

/-- Why a command stands for no operation. -/
inductive DecodeError where
  /-- `op` is 0x0E, 0x0F or 0x13 to 0x1F (30_encoding.md R93): the block answers ILLEGAL_OP. -/
  | unassigned (op : OpCode)
  /-- The Boolean operand of PACK is not one bit (30_encoding.md R89; assumption log 6). -/
  | booleanNotOneBit (arg : Nat)
deriving DecidableEq, Repr

/-- A Boolean operand is one bit, 1 = true (30_encoding.md R89). -/
def decodeBool : Nat → Option Bool
  | 0 => some false
  | 1 => some true
  | _ => none

/-- PACK, the one operation with a Boolean operand. -/
def decodePack (frame present : Nat) : Except DecodeError Instr :=
  match decodeBool present with
  | some b => .ok (.pack frame b)
  | none => .error (.booleanNotOneBit present)

/-- The operation a command stands for: "a decoder needs only `op`" (30_encoding.md R90). Unused
operands are ignored (R88). -/
def decode (c : Command) : Except DecodeError Instr :=
  match c.op.toNat with
  | 0x00 => .ok (.construct c.arg0 c.arg1 c.arg2 (PageMap.canon c.map))
  | 0x01 => .ok (.translate c.arg0)
  | 0x02 => decodePack c.arg0 c.arg1
  | 0x03 => .ok (.unpack c.arg0)
  | 0x04 => .ok (.fmtbin c.arg0 c.arg1)
  | 0x05 => .ok (.split c.arg0)
  | 0x06 => .ok (.compose c.arg0 c.arg1)
  | 0x07 => .ok (.ptget c.arg0)
  | 0x08 => .ok .findfree
  | 0x09 => .ok .selvict
  | 0x0A => .ok (.rdcnt c.arg0)
  | 0x0B => .ok (.rdfs c.arg0)
  | 0x0C => .ok (.rdreg c.arg0)
  | 0x0D => .ok .snapshot
  | 0x10 => .ok (.ptbuild c.arg0 c.arg1 (PageMap.canon c.map))
  | 0x11 => .ok (.ptset c.arg0 c.arg1)
  | 0x12 => .ok (.evict c.arg0 c.arg1)
  | _ => .error (.unassigned c.op)

/-- The operation code of an instruction (30_encoding.md R90, first column). -/
def Instr.opcode : Instr → OpCode
  | .construct _ _ _ _ => 0x00#5
  | .translate _ => 0x01#5
  | .pack _ _ => 0x02#5
  | .unpack _ => 0x03#5
  | .fmtbin _ _ => 0x04#5
  | .split _ => 0x05#5
  | .compose _ _ => 0x06#5
  | .ptget _ => 0x07#5
  | .findfree => 0x08#5
  | .selvict => 0x09#5
  | .rdcnt _ => 0x0A#5
  | .rdfs _ => 0x0B#5
  | .rdreg _ => 0x0C#5
  | .snapshot => 0x0D#5
  | .ptbuild _ _ _ => 0x10#5
  | .ptset _ _ => 0x11#5
  | .evict _ _ => 0x12#5

/-- The class column of 30_encoding.md R90. -/
inductive OpClass where
  /-- H: the source's two external entry points. -/
  | entryPoint
  /-- P: a read-only probe (D18). -/
  | probe
  /-- I: invoked only by an H operation, refused at the host port (R94). -/
  | internal
deriving DecidableEq, Repr

/-- The class of each operation (30_encoding.md R90). -/
def Instr.opClass : Instr → OpClass
  | .construct _ _ _ _ => .entryPoint
  | .translate _ => .entryPoint
  | .pack _ _ => .probe
  | .unpack _ => .probe
  | .fmtbin _ _ => .probe
  | .split _ => .probe
  | .compose _ _ => .probe
  | .ptget _ => .probe
  | .findfree => .probe
  | .selvict => .probe
  | .rdcnt _ => .probe
  | .rdfs _ => .probe
  | .rdreg _ => .probe
  | .snapshot => .probe
  | .ptbuild _ _ _ => .internal
  | .ptset _ _ => .internal
  | .evict _ _ => .internal

/-- The command that carries an instruction: its code, its operands in the order of
30_encoding.md R90, 0 and the empty map in the unused ones. The internal operations carry theirs
the same way (assumption log 10). -/
def encode (i : Instr) : Command :=
  match i with
  | .construct v p s init => { op := i.opcode, arg0 := v, arg1 := p, arg2 := s, map := init }
  | .translate va => { op := i.opcode, arg0 := va }
  | .pack frame present => { op := i.opcode, arg0 := frame, arg1 := present.toNat }
  | .unpack entry => { op := i.opcode, arg0 := entry }
  | .fmtbin value width => { op := i.opcode, arg0 := value, arg1 := width }
  | .split va => { op := i.opcode, arg0 := va }
  | .compose frame offset => { op := i.opcode, arg0 := frame, arg1 := offset }
  | .ptget page => { op := i.opcode, arg0 := page }
  | .findfree => { op := i.opcode }
  | .selvict => { op := i.opcode }
  | .rdcnt page => { op := i.opcode, arg0 := page }
  | .rdfs frame => { op := i.opcode, arg0 := frame }
  | .rdreg sel => { op := i.opcode, arg0 := sel }
  | .snapshot => { op := i.opcode }
  | .ptbuild pageCount entryBits init =>
    { op := i.opcode, arg0 := pageCount, arg1 := entryBits, map := init }
  | .ptset page entry => { op := i.opcode, arg0 := page, arg1 := entry }
  | .evict victim incoming => { op := i.opcode, arg0 := victim, arg1 := incoming }

/-- The command whose operation code is the low five bits of an opcode-table word of `nbits` bits
and whose operands, which the table gives no bits, are zero (assumption log 13). -/
def tableCommand (nbits w : Nat) : Command :=
  { op := BitVec.ofNat 5 (w % 2 ^ nbits) }

/-- The instruction the decoder reads from an opcode-table word. -/
def decodeTableWord (nbits w : Nat) : Option Instr :=
  (decode (tableCommand nbits w)).toOption

end Sys2Proof
end

