-- ==== Sys2Proof/Config.lean ====
section
/-!
DEFINITION. What a realisation fixes: the open parameters of 00_scope.md R8, with the defaults the
spec takes, and the two free values of the model.
-/

namespace Sys2Proof.Config

/-- The open parameters of 00_scope.md R8, held in the state and never written, so that every
statement holds for every choice of them (assumption log 2). `none` is "unbounded" or "no limit". -/
structure Params where
  /-- `CNT_BITS`, the width of a usage counter (D11). -/
  cntBits : Option Nat
  /-- `FAULT_BITS`, the width of the fault counter (D11). -/
  faultBits : Option Nat
  /-- `VA_BITS_PORT`, the width of the virtual-address operand (D12). -/
  vaBitsPort : Option Nat
  /-- `MAX_V`, the largest virtual size CONSTRUCT accepts (D12). -/
  maxV : Option Nat
  /-- `MAX_P`, the largest physical size CONSTRUCT accepts (D12). -/
  maxP : Option Nat
  /-- `INIT_USAGE`, the usage counter of a page present in the initial table (D8). -/
  initUsage : Nat
  /-- `SEP`, the separator character of FMTBIN (D17). -/
  sep : Char
deriving DecidableEq, Repr

/-- The default column of 00_scope.md R8. -/
def Params.spec : Params :=
  { cntBits := none, faultBits := none, vaBitsPort := none, maxV := none, maxP := none,
    initUsage := 0, sep := ' ' }

/-- A natural number fits a width; everything fits an unbounded one (00_scope.md R9). -/
def fits : Option Nat → Nat → Bool
  | none, _ => true
  | some w, n => decide (n < 2 ^ w)

/-- The values the rules write into a usage counter, 1 and `INIT_USAGE`, fit its width
(assumption log 9). -/
def Params.wf (pr : Params) : Bool :=
  fits pr.cntBits 1 && fits pr.cntBits pr.initUsage

/-- FREE VALUE (DESIGN CHOICE, assumption log 8). The four numbers `(subcode, page, value, bound)`
that CONSTRUCT reports, from `V` and `P`, when it turns away a size above a finite `MAX_V` or
`MAX_P`: the spec states no payload there. No body, so nothing can be proved of its value. -/
opaque sizeLimitPayload (v p : Nat) : Nat × Nat × Nat × Nat

/-- FREE VALUE (DESIGN CHOICE, assumption log 19). The four numbers `(subcode, page, value, bound)`
that the `info` field shows in an OK response without a warning: the spec fills `info` only for an
error or a warning (30_encoding.md R88, 60_exceptions.md R184, R186, 45_host_interface.md R160) and
states no value there. No body, so nothing can be proved of its value. -/
opaque idleInfo : Nat × Nat × Nat × Nat

end Sys2Proof.Config
end

