-- ==== Sys2Proof/Machine/State.lean ====
section
/-!
DEFINITION. The state of the machine as plain data (10_state.md section 1): the block's contents,
the open parameters of the realisation, and the host's side of the command port.
-/

namespace Sys2Proof.Machine

/-- The status of a response (30_encoding.md R91). Codes 7 to 15 are never produced, so they have
no constructor. -/
inductive Status where
  /-- The command completed; results are valid. -/
  | ok
  /-- Malformed or inconsistent construction parameters. -/
  | configError
  /-- An index of PTGET, RDCNT, RDFS or RDREG out of range. -/
  | outOfRangeError
  /-- Virtual page number ≥ page_count. -/
  | invalidPageError
  /-- Eviction requested with zero present pages. -/
  | noVictimError
  /-- Unassigned or internal `op` at the host port. -/
  | illegalOp
  /-- Any operation but CONSTRUCT while UNCONFIGURED. -/
  | notConfigured
deriving DecidableEq, Repr

/-- The `info` record `(subcode, page, value, bound)`; a field an error does not use is 0
(60_exceptions.md R184). -/
structure Info where
  subcode : Nat := 0
  page : Nat := 0
  value : Nat := 0
  bound : Nat := 0
deriving DecidableEq, Repr

/-- What `info` holds in an OK response without a warning: a free value, because the spec states none
(DESIGN CHOICE, assumption log 19). -/
def Info.idle : Info :=
  { subcode := Config.idleInfo.1, page := Config.idleInfo.2.1, value := Config.idleInfo.2.2.1,
    bound := Config.idleInfo.2.2.2 }

/-- One row of SNAPSHOT: page number, entry value, unpacked frame, present flag
(45_host_interface.md R169). -/
structure Row where
  page : Nat
  entry : Nat
  frame : Nat
  present : Bool
deriving DecidableEq, Repr

/-- The `list` field of a response (30_encoding.md R88): empty but for FMTBIN and SNAPSHOT, and for
the table that the internal operation PTBUILD returns to CONSTRUCT (assumption log 3). -/
inductive Listing where
  | empty
  | chars (l : List Char)
  | rows (l : List Row)
  | table (l : List Nat)
deriving DecidableEq, Repr

/-- A response (30_encoding.md R88). The defaults of `res0`, `res1` and `list` are what R88 says an
unused one holds. The default of `info`, what it holds when there is neither an error nor a warning,
is the model's: R88 does not say, and it is a free value (DESIGN CHOICE, assumption log 19). -/
structure Response where
  status : Status := .ok
  warn : Bool := false
  info : Info := Info.idle
  res0 : Nat := 0
  res1 : Nat := 0
  list : Listing := .empty
deriving DecidableEq, Repr

/-- The configuration (10_state.md R23): the three parameters of 00_scope.md R6. The ten derived
constants of R7 are functions of these (Machine/Constants.lean), as R23 permits. -/
structure Cfg where
  /-- `V`, virtual_space_bytes. -/
  v : Nat
  /-- `P`, physical_space_bytes. -/
  p : Nat
  /-- `S`, page_size_bytes. -/
  s : Nat
deriving DecidableEq, Repr

/-- The FrameSet (10_state.md R28): "a vector of `frame_count` bits, bit f = 1 when `f ∈ FS`", held
as the natural number with those bits. -/
structure FrameSet where
  bits : Nat
deriving DecidableEq, Repr

/-- The contents of a configured block (10_state.md section 1). -/
structure Block where
  /-- `CFG` (R23). -/
  cfg : Cfg
  /-- `PT`: the entry of each page, from page 0 (R24). -/
  pt : List Nat
  /-- `CNT`: the usage counter of each page, from page 0 (R26). -/
  cnt : List Nat
  /-- `FS` (R28). -/
  fs : FrameSet
  /-- `FAULTS` (R30). -/
  faults : Nat
deriving DecidableEq, Repr

/-- Who invoked the operation being run: the host through its port, or another operation of the
block (00_scope.md R12 `call`; 30_encoding.md R94; assumption log 3). -/
inductive Issuer where
  | host
  | block
deriving DecidableEq, Repr

/-- The machine. -/
structure State where
  /-- The open parameters of the realisation (00_scope.md R8). No step writes them. -/
  params : Config.Params
  /-- The block: `none` is UNCONFIGURED, `CONFIGURED` = 0, and then `CFG`, `PT`, `CNT`, `FS` and
  `FAULTS` have no value (10_state.md R22). -/
  block : Option Block
  /-- The model's own: who invoked the operation. Every step sets it to the host. -/
  issuer : Issuer
  /-- The model's own: the commands the host will present, the next one first. -/
  inbox : List Command
  /-- The model's own: the responses given so far, the latest one first. -/
  responses : List Response
deriving DecidableEq, Repr

/-- Reasons the machine would stop with a fault. There are none: "The block never halts"
(70_reset_and_hazards.md R221), and every error of the spec is a response after which the next
command runs normally (60_exceptions.md R191). -/
inductive Fault where
deriving DecidableEq, Repr

/-- Reasons a step has no meaning. -/
inductive Refusal where
  /-- An instruction without a meaning; raised by no arm of `exec`. Safe. -/
  | notModelled (mnemonic : String)
  /-- FMTBIN with `width` = 0 or `value ≥ 2^width`: "no meaning; the model should not return a
  string" (93 U6). Raised by FMTBIN. Safe. -/
  | fmtbinOutsideDomain (value width : Nat)
  /-- PTBUILD invoked with `page_count` = 0 or `entry_bits < 5`, outside its operands' range
  (41_page_table.md R120). Raised by PTBUILD invoked by the block. Safe. -/
  | ptbuildOutsideDomain (pageCount entryBits : Nat)
  /-- PTSET invoked outside its preconditions, or with no table to write (93 U8). Raised by PTSET
  invoked by the block. Safe. -/
  | ptsetOutsidePrecondition (page entry : Nat)
  /-- EVICT invoked outside its preconditions, or with no table to write (93 U8). Raised by EVICT
  invoked by the block. Safe. -/
  | evictOutsidePrecondition (victim incoming : Nat)
  /-- A PACK command whose Boolean operand is neither 0 nor 1, which the 1-bit operand cannot
  express (30_encoding.md R89). Raised by the step. Safe. -/
  | booleanNotOneBit (arg : Nat)
  /-- A virtual address that a finite `VA_BITS_PORT` cannot express (20_memory.md R51). Raised by
  the step. Safe. -/
  | addressWiderThanPort (va : Nat)
deriving DecidableEq, Repr

/-- `CONFIGURED` (10_state.md R22). -/
def State.configured (s : State) : Bool := s.block.isSome

/-- Power-on (70_reset_and_hazards.md R210, 10_state.md R34): UNCONFIGURED, no other state has a
value. The open parameters are at the spec's defaults; no command has been presented and no
response given (assumption logs 1, 2, 3). -/
def State.reset : State :=
  { params := Config.Params.spec, block := none, issuer := .host, inbox := [], responses := [] }

end Sys2Proof.Machine
end

