-- ==== Sys2Proof/Machine/Constants.lean ====
section
/-!
DEFINITION. The constants derived from a configuration (00_scope.md R7), the power-of-two test
(R6), the counter increment `inc_w` (10_state.md R27) and the codes of the statuses
(30_encoding.md R91).
-/

namespace Sys2Proof.Machine

/-- `n = 2^k` for some natural k: true of 1, false of 0 (00_scope.md R6). -/
def isPow2 (n : Nat) : Bool := decide (n = 2 ^ n.log2)

/-- `CONTROL_BITS`: one present bit and four reserved bits (00_scope.md R7). -/
def controlBits : Nat := 5

/-- `page_count = V / S`. -/
def Cfg.pageCount (c : Cfg) : Nat := c.v / c.s

/-- `frame_count = P / S`. -/
def Cfg.frameCount (c : Cfg) : Nat := c.p / c.s

/-- `offset_bits = log2(S)`. -/
def Cfg.offsetBits (c : Cfg) : Nat := c.s.log2

/-- `vpn_bits = log2(page_count)`. -/
def Cfg.vpnBits (c : Cfg) : Nat := c.pageCount.log2

/-- `frame_bits = log2(frame_count)`, "and 0 if `frame_count ≤ 1`". -/
def Cfg.frameBits (c : Cfg) : Nat := if c.frameCount ≤ 1 then 0 else c.frameCount.log2

/-- `entry_bits = frame_bits + CONTROL_BITS`. -/
def Cfg.entryBits (c : Cfg) : Nat := c.frameBits + controlBits

/-- `2^w − 1`, the mask of a field of width `w` at bit 0. -/
def lowMask (w : Nat) : Nat := 2 ^ w - 1

/-- `frame_mask = 2^frame_bits − 1`. -/
def Cfg.frameMask (c : Cfg) : Nat := lowMask c.frameBits

/-- `present_mask = 2^frame_bits`. -/
def Cfg.presentMask (c : Cfg) : Nat := 2 ^ c.frameBits

/-- `offset_mask = 2^offset_bits − 1`. -/
def Cfg.offsetMask (c : Cfg) : Nat := lowMask c.offsetBits

/-- `inc_w(n)`: `n + 1` if w is unbounded, else `min(n + 1, 2^w − 1)` (10_state.md R27). -/
def incW : Option Nat → Nat → Nat
  | none, n => n + 1
  | some w, n => min (n + 1) (2 ^ w - 1)

/-- The status numbers of 30_encoding.md R91. -/
def Status.code : Status → StatusCode
  | .ok => 0#4
  | .configError => 1#4
  | .outOfRangeError => 2#4
  | .invalidPageError => 3#4
  | .noVictimError => 4#4
  | .illegalOp => 5#4
  | .notConfigured => 6#4

end Sys2Proof.Machine
end

