-- ==== Sys2Proof/Machine/Operands.lean ====
section
/-!
DEFINITION. How operands arrive at the port and how results are written into a response
(30_encoding.md R88, R89).

Operands are taken as they are: no extension, no scaling, no masking. The one operand whose width a
realisation may fix is the virtual address (`VA_BITS_PORT`, 00_scope.md R8).
-/

namespace Sys2Proof.Machine

/-- The operand that a finite `VA_BITS_PORT` of this realisation cannot express, if there is one:
an invalid address "is not wrapped or truncated" (20_memory.md R51), it cannot be presented
(assumption log 7). -/
def tooWideForPort (pr : Config.Params) : Instr → Option Nat
  | .construct _ _ _ _ => none
  | .translate va => if Config.fits pr.vaBitsPort va then none else some va
  | .pack _ _ => none
  | .unpack _ => none
  | .fmtbin _ _ => none
  | .split va => if Config.fits pr.vaBitsPort va then none else some va
  | .compose _ _ => none
  | .ptget _ => none
  | .findfree => none
  | .selvict => none
  | .rdcnt _ => none
  | .rdfs _ => none
  | .rdreg _ => none
  | .snapshot => none
  | .ptbuild _ _ _ => none
  | .ptset _ _ => none
  | .evict _ _ => none

/-- A Boolean result is one bit, 1 = true (30_encoding.md R89). -/
def boolResult (b : Bool) : Nat := b.toNat

/-- OK with one natural result. -/
def Response.ofNat (r : Nat) : Response := { res0 := r }

/-- OK with two natural results. -/
def Response.ofPair (r0 r1 : Nat) : Response := { res0 := r0, res1 := r1 }

/-- OK with an optional result: `res1` = 1 with the value in `res0`, or both 0 for none
(30_encoding.md R89). -/
def Response.ofOption : Option Nat → Response
  | some r => { res0 := r, res1 := 1 }
  | none => { res0 := 0, res1 := 0 }

/-- OK with a list result. -/
def Response.ofList (l : Listing) : Response := { list := l }

end Sys2Proof.Machine
end

