-- ==== Sys2Proof/Machine/Ops.lean ====
section
/-!
DEFINITION. The named operations over the state: reading and writing the arrays `PT`, `CNT` and the
set `FS` (00_scope.md R12), giving a response, and ending a command with an error (R12 `raise`).

An error is this block's "trap entry" (60_exceptions.md R190): "Nothing is saved, no mode changes,
no control goes anywhere: the response carries the status and the block is ready for the next
command." There is no return from it: "There is no return operation because there is nothing to
return from" (R191).
-/

namespace Sys2Proof.Machine

/-- The outcome of one operation of this machine. -/
abbrev Result := Host.Outcome State Fault Refusal

/-! ### The arrays (41_page_table.md R126, 20_memory.md R56) -/

/-- `PT[p]`. -/
def Block.entry (b : Block) (p : Nat) : Nat := b.pt.getD p 0

/-- `PT[p] <- e`. -/
def Block.setEntry (b : Block) (p e : Nat) : Block := { b with pt := b.pt.set p e }

/-- `CNT[p]`. -/
def Block.count (b : Block) (p : Nat) : Nat := b.cnt.getD p 0

/-- `CNT[p] <- n`. -/
def Block.setCount (b : Block) (p n : Nat) : Block := { b with cnt := b.cnt.set p n }

/-! ### The FrameSet (10_state.md R28) -/

/-- The set with no frame in it. -/
def FrameSet.empty : FrameSet := ⟨0⟩

/-- `f ∈ FS`. -/
def FrameSet.mem (fs : FrameSet) (f : Nat) : Bool := fs.bits.testBit f

/-- `FS ∪ {f}`. -/
def FrameSet.insert (fs : FrameSet) (f : Nat) : FrameSet := ⟨fs.bits ||| 2 ^ f⟩

/-- The number of elements of `FS` (10_state.md R37, selector 15). -/
def FrameSet.card (fs : FrameSet) : Nat := (List.range (fs.bits.log2 + 1)).countP fs.mem

/-- `FS <- FS ∪ {f}`. -/
def Block.addFrame (b : Block) (f : Nat) : Block := { b with fs := b.fs.insert f }

/-- `FAULTS <- inc_FAULT_BITS(FAULTS)` (10_state.md R30). -/
def Block.countFault (b : Block) (pr : Config.Params) : Block :=
  { b with faults := incW pr.faultBits b.faults }

/-! ### Responses and errors -/

/-- The error an operation ends with: its status and its payload (60_exceptions.md R181, R184). -/
structure OpError where
  status : Status
  info : Info
deriving DecidableEq, Repr

/-- Give a response: the command is complete. -/
def State.respond (s : State) (r : Response) : State :=
  { s with responses := r :: s.responses }

/-- The block's contents are replaced by `b`. -/
def State.withBlock (s : State) (b : Block) : State := { s with block := some b }

/-- End the command with an error (00_scope.md R12 `raise`, 60_exceptions.md R190): the response
carries status and payload, results are 0 or empty, and no state changes. -/
def State.raise (s : State) (e : OpError) : State :=
  s.respond { status := e.status, info := e.info }

/-- ILLEGAL_OP, `info` value = the `op` (60_exceptions.md R184, R187). -/
def OpError.illegalOp (op : OpCode) : OpError :=
  { status := .illegalOp, info := { value := op.toNat } }

/-- NOT_CONFIGURED, payload all 0 (60_exceptions.md R184, R188). -/
def OpError.notConfigured : OpError := { status := .notConfigured, info := {} }

/-- NoVictimError, payload all 0 (60_exceptions.md R184). -/
def OpError.noVictim : OpError := { status := .noVictimError, info := {} }

/-- OutOfRangeError: page = value = the offending index (60_exceptions.md R184). -/
def OpError.outOfRange (index bound : Nat) : OpError :=
  { status := .outOfRangeError, info := { page := index, value := index, bound := bound } }

/-- InvalidPageError: page = the offending vpn, value = the virtual address
(60_exceptions.md R184). -/
def OpError.invalidPage (vpn va bound : Nat) : OpError :=
  { status := .invalidPageError, info := { page := vpn, value := va, bound := bound } }

/-- Run an operation that needs a configured block; while UNCONFIGURED it ends with NOT_CONFIGURED
(60_exceptions.md R188). -/
def State.whenConfigured (s : State) (k : Block → Result) : Result :=
  match s.block with
  | none => .next (s.raise .notConfigured)
  | some b => k b

/-- A read-only operation: its answer on the configured block, state unchanged
(20_memory.md R57). -/
def State.probe (s : State) (k : Block → Except OpError Response) : Result :=
  s.whenConfigured fun b =>
    match k b with
    | .ok r => .next (s.respond r)
    | .error e => .next (s.raise e)

/-- An internal operation: from the host port it ends with ILLEGAL_OP, whether or not the block is
configured (30_encoding.md R94, 60_exceptions.md R187); invoked by the block it runs. -/
def State.internal (s : State) (op : OpCode) (k : Result) : Result :=
  match s.issuer with
  | .host => .next (s.raise (.illegalOp op))
  | .block => k

end Sys2Proof.Machine
end

