-- ==== Sys2Proof/Machine/Codec.lean ====
section
/-!
DEFINITION. The BitField Codec (40_codec.md): PACK, UNPACK, FMTBIN.
-/

namespace Sys2Proof.Machine

/-- PACK with a frame field of width `fb` (40_codec.md R110). -/
def packBits (fb frame : Nat) (present : Bool) : Nat :=
  (frame &&& lowMask fb) ||| (if present then 2 ^ fb else 0)

/-- The present flag of UNPACK with a frame field of width `fb` (40_codec.md R112). -/
def presentBit (fb entry : Nat) : Bool := decide (entry &&& 2 ^ fb ≠ 0)

/-- The frame of UNPACK with a frame field of width `fb` (40_codec.md R112). -/
def frameField (fb entry : Nat) : Nat := entry &&& lowMask fb

/-- PACK under a configuration (40_codec.md R110). -/
def Cfg.pack (c : Cfg) (frame : Nat) (present : Bool) : Nat := packBits c.frameBits frame present

/-- UNPACK(entry).present under a configuration. -/
def Cfg.present (c : Cfg) (entry : Nat) : Bool := presentBit c.frameBits entry

/-- UNPACK(entry).frame under a configuration. -/
def Cfg.frame (c : Cfg) (entry : Nat) : Nat := frameField c.frameBits entry

/-- The character of digit `i` of a value (40_codec.md R114). -/
def digitChar (value i : Nat) : Char := if value.testBit i then '1' else '0'

/-- Digits `n − 1` down to 0, a separator after digit i exactly when i is a positive multiple of 4
(40_codec.md R114). -/
def binaryGroups (sep : Char) (value : Nat) : Nat → List Char
  | 0 => []
  | i + 1 =>
    digitChar value i ::
      (if 0 < i ∧ i % 4 = 0 then sep :: binaryGroups sep value i else binaryGroups sep value i)

/-- The domain of FMTBIN (40_codec.md R114). -/
def fmtbinDomain (value width : Nat) : Bool := decide (1 ≤ width ∧ value < 2 ^ width)

/-- PACK (40_codec.md R110). -/
def execPack (frame : Nat) (present : Bool) (s : State) : Result :=
  s.probe fun b => .ok (.ofNat (b.cfg.pack frame present))

/-- UNPACK (40_codec.md R112). -/
def execUnpack (entry : Nat) (s : State) : Result :=
  s.probe fun b => .ok (.ofPair (b.cfg.frame entry) (boolResult (b.cfg.present entry)))

/-- FMTBIN (40_codec.md R114); outside its domain the operation has no meaning and the model
refuses it (93_implementation_defined.md U6). -/
def execFmtbin (value width : Nat) (s : State) : Result :=
  s.whenConfigured fun _ =>
    if fmtbinDomain value width then
      .next (s.respond (.ofList (.chars (binaryGroups s.params.sep value width))))
    else .refused (.fmtbinOutsideDomain value width)

end Sys2Proof.Machine
end

