-- ==== Sys2Proof/Machine/Flags.lean ====
section
/-!
DEFINITION. The one flag of a response, `warn` (30_encoding.md R92): the duplicate-claim check
(41_page_table.md R121) and its payload (60_exceptions.md R186). No flag persists (10_state.md R31).
-/

namespace Sys2Proof.Machine

/-- The page numbers of a table, in increasing order. -/
def tablePages (t : List Nat) : List Nat := List.range t.length

/-- Page `p` of table `t` is present and claims frame `f` (41_page_table.md R121). -/
def claims (fb : Nat) (t : List Nat) (f p : Nat) : Bool :=
  presentBit fb (t.getD p 0) && decide (frameField fb (t.getD p 0) = f)

/-- The pages that claim frame `f`, in increasing order. -/
def claimants (fb : Nat) (t : List Nat) (f : Nat) : List Nat :=
  (tablePages t).filter (claims fb t f)

/-- The payload for frame `f`, if two or more present pages claim it: page = p1, value = p2,
bound = f, with p1 < p2 the two smallest (60_exceptions.md R186). -/
def claimPayload (fb : Nat) (t : List Nat) (f : Nat) : Option Info :=
  match claimants fb t f with
  | p1 :: p2 :: _ => some { page := p1, value := p2, bound := f }
  | _ => none

/-- The warning: the payload of the smallest frame claimed twice, or none when no frame is
(41_page_table.md R121, 60_exceptions.md R186). -/
def duplicateClaim (fb : Nat) (t : List Nat) : Option Info :=
  (List.range (2 ^ fb)).findSome? (claimPayload fb t)

/-- OK with the warning bit and its payload: `warn` = 1 exactly when there is one
(30_encoding.md R92). Without one, the payload is the free value of assumption log 19 (DESIGN CHOICE:
60_exceptions.md R186 and 45_host_interface.md R160 fill `info` only with a warning). -/
def Response.ofWarning : Option Info → Response
  | some i => { warn := true, info := i }
  | none => { warn := false, info := Info.idle }

end Sys2Proof.Machine
end

