-- ==== Sys2Proof/Machine/PageTable.lean ====
section
/-!
DEFINITION. The Page Table (41_page_table.md): PTBUILD, PTGET, PTSET.
-/

namespace Sys2Proof.Machine

/-- The first violation among the initial entries, range check before width check
(41_page_table.md R120, 60_exceptions.md R183 sub-codes 6 and 7). The map is in increasing order of
page number. -/
def entryViolation (pageCount entryBits : Nat) : PageMap → Option OpError
  | [] => none
  | (p, e) :: m =>
    if pageCount ≤ p then
      some { status := .configError,
             info := { subcode := 6, page := p, value := p, bound := pageCount } }
    else if 2 ^ entryBits ≤ e then
      some { status := .configError,
             info := { subcode := 7, page := p, value := e, bound := 2 ^ entryBits } }
    else entryViolation pageCount entryBits m

/-- All slots 0, then the initial entries laid over (41_page_table.md R120). -/
def overlay (pageCount : Nat) (init : PageMap) : List Nat :=
  init.foldl (fun t pe => t.set pe.1 pe.2) (List.replicate pageCount 0)

/-- PTBUILD (41_page_table.md R120): the table and the warning, if any. The frame field is
`entry_bits − CONTROL_BITS` wide (00_scope.md R7). -/
def ptBuild (pageCount entryBits : Nat) (init : PageMap) :
    Except OpError (List Nat × Option Info) :=
  match entryViolation pageCount entryBits init with
  | some e => .error e
  | none =>
    .ok (overlay pageCount init,
         duplicateClaim (entryBits - controlBits) (overlay pageCount init))

/-- PTGET (41_page_table.md R123). -/
def Block.ptGet (b : Block) (page : Nat) : Except OpError Nat :=
  if b.cfg.pageCount ≤ page then .error (.outOfRange page b.cfg.pageCount)
  else .ok (b.entry page)

/-- PTSET (41_page_table.md R125): overwrite one slot. -/
def Block.ptSet (b : Block) (page entry : Nat) : Block := b.setEntry page entry

/-- The preconditions of PTSET (41_page_table.md R125). -/
def Block.ptSetReady (b : Block) (page entry : Nat) : Bool :=
  decide (page < b.cfg.pageCount) && decide (entry < 2 ^ b.cfg.entryBits)

/-- PTGET (41_page_table.md R123). -/
def execPtget (page : Nat) (s : State) : Result :=
  s.probe fun b => (b.ptGet page).map .ofNat

/-- PTBUILD (41_page_table.md R120), as an operation CONSTRUCT invokes: it returns the table and
the warning and writes no state. -/
def execPtbuild (pageCount entryBits : Nat) (init : PageMap) (s : State) : Result :=
  s.internal 0x10#5 <|
    if 1 ≤ pageCount ∧ controlBits ≤ entryBits then
      match ptBuild pageCount entryBits init with
      | .error e => .next (s.raise e)
      | .ok (t, w) => .next (s.respond { Response.ofWarning w with list := .table t })
    else .refused (.ptbuildOutsideDomain pageCount entryBits)

/-- PTSET (41_page_table.md R125), as an operation TRANSLATE invokes; outside its preconditions it
has no meaning (93_implementation_defined.md U8). -/
def execPtset (page entry : Nat) (s : State) : Result :=
  s.internal 0x11#5 <|
    match s.block with
    | none => .refused (.ptsetOutsidePrecondition page entry)
    | some b =>
      if b.ptSetReady page entry then .next ((s.withBlock (b.ptSet page entry)).respond {})
      else .refused (.ptsetOutsidePrecondition page entry)

end Sys2Proof.Machine
end

