-- ==== Sys2Proof/Machine/Lfu.lean ====
section
/-!
DEFINITION. The LFU Replacement Policy (43_lfu.md): SELVICT, EVICT.
-/

namespace Sys2Proof.Machine

/-- Page `p` is present: UNPACK(PT[p]).present. -/
def Block.isPresent (b : Block) (p : Nat) : Bool := b.cfg.present (b.entry p)

/-- The frame of page `p`: UNPACK(PT[p]).frame. -/
def Block.frameOf (b : Block) (p : Nat) : Nat := b.cfg.frame (b.entry p)

/-- One turn of SELVICT's loop (43_lfu.md R135): a present page replaces the best so far only if its
count is strictly smaller. -/
def Block.better (b : Block) (best : Option Nat) (p : Nat) : Option Nat :=
  if b.isPresent p then
    match best with
    | none => some p
    | some q => if b.count p < b.count q then some p else some q
  else best

/-- SELVICT (43_lfu.md R135): the scan over the pages in increasing order; none when no page is
present. -/
def Block.selVict (b : Block) : Option Nat :=
  (List.range b.cfg.pageCount).foldl b.better none

/-- The block after EVICT, in the source's order of writes (43_lfu.md R138). -/
def Block.evict (b : Block) (victim incoming : Nat) : Block :=
  ((((b.setEntry victim 0).setCount victim 0).setEntry incoming
    (b.cfg.pack (b.frameOf victim) true)).setCount incoming 1)

/-- The preconditions of EVICT (43_lfu.md R138). -/
def Block.evictReady (b : Block) (victim incoming : Nat) : Bool :=
  decide (victim < b.cfg.pageCount) && decide (incoming < b.cfg.pageCount) &&
    b.isPresent victim && !b.isPresent incoming

/-- SELVICT (43_lfu.md R135). -/
def execSelvict (s : State) : Result :=
  s.probe fun b =>
    match b.selVict with
    | some p => .ok (.ofNat p)
    | none => .error .noVictim

/-- EVICT (43_lfu.md R138), as an operation TRANSLATE invokes: it returns the victim's frame;
outside its preconditions it has no meaning (93_implementation_defined.md U8). -/
def execEvict (victim incoming : Nat) (s : State) : Result :=
  s.internal 0x12#5 <|
    match s.block with
    | none => .refused (.evictOutsidePrecondition victim incoming)
    | some b =>
      if b.evictReady victim incoming then
        .next ((s.withBlock (b.evict victim incoming)).respond (.ofNat (b.frameOf victim)))
      else .refused (.evictOutsidePrecondition victim incoming)

end Sys2Proof.Machine
end

