-- ==== Sys2Proof/Machine/HostInterface.lean ====
section
/-!
DEFINITION. The host interface (45_host_interface.md): CONSTRUCT, RDCNT, RDFS, RDREG, SNAPSHOT.
-/

namespace Sys2Proof.Machine

/-- A ConfigError about a size parameter (60_exceptions.md R183 sub-codes 1 to 5). -/
def OpError.config (subcode value bound : Nat) : OpError :=
  { status := .configError, info := { subcode := subcode, value := value, bound := bound } }

/-- The parameter checks of CONSTRUCT, in order (45_host_interface.md R160). -/
def sizeViolation (v p sz : Nat) : Option OpError :=
  if !isPow2 sz then some (.config 1 sz 0)
  else if !isPow2 v then some (.config 2 v 0)
  else if !isPow2 p then some (.config 3 p 0)
  else if v % sz ≠ 0 then some (.config 4 v sz)
  else if p % sz ≠ 0 then some (.config 5 p sz)
  else none

/-- A size is above a finite limit; none is above "no limit". -/
def exceeds : Option Nat → Nat → Bool
  | none, _ => false
  | some m, n => decide (m < n)

/-- A size is above a finite `MAX_V` or `MAX_P` (00_scope.md R8). -/
def aboveLimit (pr : Config.Params) (v p : Nat) : Bool :=
  exceeds pr.maxV v || exceeds pr.maxP p

/-- What CONSTRUCT answers to a size above a finite limit: ConfigError, with a payload the spec
does not state (DESIGN CHOICE, assumption log 8). -/
def sizeLimitError (v p : Nat) : OpError :=
  { status := .configError,
    info := { subcode := (Config.sizeLimitPayload v p).1,
              page := (Config.sizeLimitPayload v p).2.1,
              value := (Config.sizeLimitPayload v p).2.2.1,
              bound := (Config.sizeLimitPayload v p).2.2.2 } }

/-- The initial usage counters (45_host_interface.md R160): `INIT_USAGE` for a present page, 0 for
an absent one. -/
def initialCounts (c : Cfg) (initUsage : Nat) (t : List Nat) : List Nat :=
  t.map fun e => if c.present e then initUsage else 0

/-- The initial FrameSet (45_host_interface.md R160): the frames of the present entries. -/
def initialFrames (c : Cfg) (t : List Nat) : FrameSet :=
  t.foldl (fun fs e => if c.present e then fs.insert (c.frame e) else fs) FrameSet.empty

/-- The block that a successful CONSTRUCT installs around a table (45_host_interface.md R160,
10_state.md R34). -/
def freshBlock (c : Cfg) (initUsage : Nat) (t : List Nat) : Block :=
  { cfg := c, pt := t, cnt := initialCounts c initUsage t, fs := initialFrames c t, faults := 0 }

/-- CONSTRUCT up to the commit (45_host_interface.md R160): the new block and the warning, or the
ConfigError. -/
def constructBlock (pr : Config.Params) (v p sz : Nat) (init : PageMap) :
    Except OpError (Block × Option Info) :=
  match sizeViolation v p sz with
  | some e => .error e
  | none =>
    match ptBuild (Cfg.mk v p sz).pageCount (Cfg.mk v p sz).entryBits init with
    | .error e => .error e
    | .ok (t, w) =>
      if aboveLimit pr v p then .error (sizeLimitError v p)
      else .ok (freshBlock (Cfg.mk v p sz) pr.initUsage t, w)

/-- RDCNT (45_host_interface.md R166). -/
def Block.readCount (b : Block) (page : Nat) : Except OpError Nat :=
  if b.cfg.pageCount ≤ page then .error (.outOfRange page b.cfg.pageCount)
  else .ok (b.count page)

/-- RDFS (45_host_interface.md R167). -/
def Block.readFrameSet (b : Block) (frame : Nat) : Except OpError Nat :=
  if b.cfg.frameCount ≤ frame then .error (.outOfRange frame b.cfg.frameCount)
  else .ok (boolResult (b.fs.mem frame))

/-- RDREG: the register map of 10_state.md R37. -/
def Block.readReg (b : Block) (sel : Nat) : Except OpError Nat :=
  match sel with
  | 0 => .ok 1
  | 1 => .ok b.cfg.v
  | 2 => .ok b.cfg.p
  | 3 => .ok b.cfg.s
  | 4 => .ok b.cfg.pageCount
  | 5 => .ok b.cfg.frameCount
  | 6 => .ok b.cfg.offsetBits
  | 7 => .ok b.cfg.vpnBits
  | 8 => .ok b.cfg.frameBits
  | 9 => .ok b.cfg.entryBits
  | 10 => .ok b.cfg.frameMask
  | 11 => .ok b.cfg.presentMask
  | 12 => .ok b.cfg.offsetMask
  | 13 => .ok controlBits
  | 14 => .ok b.faults
  | 15 => .ok b.fs.card
  | _ => .error (.outOfRange sel 16)

/-- The row of one page (45_host_interface.md R169). -/
def Block.row (b : Block) (p : Nat) : Row :=
  { page := p, entry := b.entry p, frame := b.frameOf p, present := b.isPresent p }

/-- SNAPSHOT: one row per page, in increasing order (45_host_interface.md R169). -/
def Block.snapshot (b : Block) : List Row := (List.range b.cfg.pageCount).map b.row

/-- CONSTRUCT (45_host_interface.md R160): on success the whole block is replaced (10_state.md R36),
on ConfigError nothing changes (R35). -/
def execConstruct (v p sz : Nat) (init : PageMap) (s : State) : Result :=
  match constructBlock s.params v p sz init with
  | .error e => .next (s.raise e)
  | .ok (b, w) => .next ((s.withBlock b).respond (.ofWarning w))

/-- RDCNT (45_host_interface.md R166). -/
def execRdcnt (page : Nat) (s : State) : Result :=
  s.probe fun b => (b.readCount page).map .ofNat

/-- RDFS (45_host_interface.md R167). -/
def execRdfs (frame : Nat) (s : State) : Result :=
  s.probe fun b => (b.readFrameSet frame).map .ofNat

/-- RDREG (45_host_interface.md R168). -/
def execRdreg (sel : Nat) (s : State) : Result :=
  s.probe fun b => (b.readReg sel).map .ofNat

/-- SNAPSHOT (45_host_interface.md R169). -/
def execSnapshot (s : State) : Result :=
  s.probe fun b => .ok (.ofList (.rows b.snapshot))

end Sys2Proof.Machine
end

