-- ==== Sys2Proof/Machine/FrameAllocator.lean ====
section
/-!
DEFINITION. The Frame Allocator (42_frame_allocator.md): FINDFREE.
-/

namespace Sys2Proof.Machine

/-- FINDFREE (42_frame_allocator.md R130): the first frame of `0 … frame_count − 1`, in increasing
order, that is not in `FS`. -/
def Block.findFree (b : Block) : Option Nat :=
  (List.range b.cfg.frameCount).find? fun f => !b.fs.mem f

/-- FINDFREE (42_frame_allocator.md R130). -/
def execFindfree (s : State) : Result :=
  s.probe fun b => .ok (.ofOption b.findFree)

end Sys2Proof.Machine
end

