-- ==== Sys2Proof/Machine/Translator.lean ====
section
/-!
DEFINITION. The Address Translator (44_translator.md): SPLIT, COMPOSE, TRANSLATE.
-/

namespace Sys2Proof.Machine

/-- The virtual page number of an address (44_translator.md R145, 30_encoding.md R83). -/
def Cfg.vpn (c : Cfg) (va : Nat) : Nat := va >>> c.offsetBits

/-- The offset of an address (44_translator.md R145, 30_encoding.md R83). -/
def Cfg.offset (c : Cfg) (va : Nat) : Nat := va &&& ((1 <<< c.offsetBits) - 1)

/-- SPLIT (44_translator.md R145). -/
def Cfg.split (c : Cfg) (va : Nat) : Except OpError (Nat × Nat) :=
  if c.pageCount ≤ c.vpn va then .error (.invalidPage (c.vpn va) va c.pageCount)
  else .ok (c.vpn va, c.offset va)

/-- COMPOSE (44_translator.md R147). -/
def Cfg.compose (c : Cfg) (frame offset : Nat) : Nat := (frame <<< c.offsetBits) ||| offset

/-- The hit path's write: `CNT[vpn] <- inc(CNT[vpn])` (44_translator.md R150 step 3). -/
def Block.hit (b : Block) (pr : Config.Params) (vpn : Nat) : Block :=
  b.setCount vpn (incW pr.cntBits (b.count vpn))

/-- The free-frame path's writes: PTSET, `FS ∪ {f}`, `CNT[vpn] <- 1` (44_translator.md R150
step 4). -/
def Block.loadFree (b : Block) (vpn f : Nat) : Block :=
  ((b.ptSet vpn (b.cfg.pack f true)).addFrame f).setCount vpn 1

/-- The miss path after `FAULTS` has been counted (44_translator.md R150 step 4): the block after
it, and the frame assigned or the error. -/
def Block.assign (b : Block) (vpn : Nat) : Block × Except OpError Nat :=
  match b.findFree with
  | some f => (b.loadFree vpn f, .ok f)
  | none =>
    match b.selVict with
    | some victim => (b.evict victim vpn, .ok (b.frameOf victim))
    | none => (b, .error .noVictim)

/-- The Lookup step and what follows it, for a valid page number (44_translator.md R150 steps 2
to 4): the block after it, and the frame or the error. -/
def Block.lookup (b : Block) (pr : Config.Params) (vpn : Nat) : Block × Except OpError Nat :=
  if b.isPresent vpn then (b.hit pr vpn, .ok (b.frameOf vpn))
  else (b.countFault pr).assign vpn

/-- SPLIT (44_translator.md R145). -/
def execSplit (va : Nat) (s : State) : Result :=
  s.probe fun b => (b.cfg.split va).map fun vo => .ofPair vo.1 vo.2

/-- COMPOSE (44_translator.md R147). -/
def execCompose (frame offset : Nat) (s : State) : Result :=
  s.probe fun b => .ok (.ofNat (b.cfg.compose frame offset))

/-- TRANSLATE (44_translator.md R150). -/
def execTranslate (va : Nat) (s : State) : Result :=
  s.whenConfigured fun b =>
    match b.cfg.split va with
    | .error e => .next (s.raise e)
    | .ok (vpn, offset) =>
      match b.lookup s.params vpn with
      | (b', .ok frame) => .next ((s.withBlock b').respond (.ofNat (b.cfg.compose frame offset)))
      | (b', .error e) => .next ((s.withBlock b').raise e)

end Sys2Proof.Machine
end

