-- ==== Sys2Proof/Machine/Dispatch.lean ====
section
/-!
DEFINITION. One arm per operation of 30_encoding.md R90, in the table's order.
-/

namespace Sys2Proof.Machine

def exec (i : Instr) (s : State) : Host.Outcome State Fault Refusal :=
  match i with
  | .construct v p sz init => Sys2Proof.Machine.execConstruct v p sz init s
  | .translate va => Sys2Proof.Machine.execTranslate va s
  | .pack frame present => Sys2Proof.Machine.execPack frame present s
  | .unpack entry => Sys2Proof.Machine.execUnpack entry s
  | .fmtbin value width => Sys2Proof.Machine.execFmtbin value width s
  | .split va => Sys2Proof.Machine.execSplit va s
  | .compose frame offset => Sys2Proof.Machine.execCompose frame offset s
  | .ptget page => Sys2Proof.Machine.execPtget page s
  | .findfree => Sys2Proof.Machine.execFindfree s
  | .selvict => Sys2Proof.Machine.execSelvict s
  | .rdcnt page => Sys2Proof.Machine.execRdcnt page s
  | .rdfs frame => Sys2Proof.Machine.execRdfs frame s
  | .rdreg sel => Sys2Proof.Machine.execRdreg sel s
  | .snapshot => Sys2Proof.Machine.execSnapshot s
  | .ptbuild pageCount entryBits init => Sys2Proof.Machine.execPtbuild pageCount entryBits init s
  | .ptset page entry => Sys2Proof.Machine.execPtset page entry s
  | .evict victim incoming => Sys2Proof.Machine.execEvict victim incoming s

end Sys2Proof.Machine
end

