-- ==== Sys2Proof/Machine/Port.lean ====
section
/-!
DEFINITION. The host port: taking the next command, and what a command does from its presentation
to its response (00_scope.md R13, 60_exceptions.md R189).
-/

namespace Sys2Proof.Machine

/-- The block takes a command from the host; `rest` is what the host will present after it. -/
def State.accept (s : State) (rest : List Command) : State :=
  { s with inbox := rest, issuer := .host }

/-- Run a decoded operation from the port, unless the port cannot express its address operand
(assumption log 7). -/
def runDecoded (i : Instr) (s : State) : Result :=
  match tooWideForPort s.params i with
  | some va => .refused (.addressWiderThanPort va)
  | none => exec i s

/-- Run a command that has been taken: ILLEGAL_OP is tested before anything else
(60_exceptions.md R187, R189). -/
def runCommand (c : Command) (s : State) : Result :=
  match decode c with
  | .error (.unassigned op) => .next (s.raise (.illegalOp op))
  | .error (.booleanNotOneBit arg) => .refused (.booleanNotOneBit arg)
  | .ok i => runDecoded i s

end Sys2Proof.Machine
end

