-- ==== Sys2Proof/Machine/Step.lean ====
section
/-!
DEFINITION. One step: one command (00_scope.md R13, 92_eei_decisions.md D1).
-/

namespace Sys2Proof.Machine

/-- Take the next command of the host and run it to completion. While the host presents none, the
block waits unchanged: it "never halts" (70_reset_and_hazards.md R221; assumption log 1). -/
def step (s : State) : Host.Outcome State Fault Refusal :=
  match s.inbox with
  | [] => .next s
  | c :: rest => runCommand c (s.accept rest)

/-- `s` with the command of an opcode-table word as the next one the host presents: the block
fetches no instructions (10_state.md R21), so this stands for the host's choice. -/
def State.withFetchWord (s : State) (nbits w : Nat) : State :=
  { s with inbox := tableCommand nbits w :: s.inbox }

end Sys2Proof.Machine
end

