-- ==== Sys2Proof/Machine/Text.lean ====
section
/-!
DEFINITION. The textual syntax of 30_encoding.md R96: one command a line, assembled into the command
`(op; arg0, arg1, arg2; map)`. No step reads text; choices of detail are in assumption log 14.
-/

namespace Sys2Proof.Machine

/-- U+007B, the opening brace of a map operand. -/
def openBrace : Char := Char.ofNat 123

/-- U+007D, the closing brace of a map operand. -/
def closeBrace : Char := Char.ofNat 125

/-- "Text after `;` is a comment." -/
def dropComment (l : List Char) : List Char := l.takeWhile fun c => c ≠ ';'

/-- The optional `=> STATUS result=value` "is not part of the command". -/
def dropExpected : List Char → List Char
  | '=' :: '>' :: _ => []
  | c :: cs => c :: dropExpected cs
  | [] => []

/-- White space between the parts of a line. -/
def isBlank (c : Char) : Bool := c = ' ' || c = '\t'

/-- Without white space at either end. -/
def trim (l : List Char) : List Char :=
  ((l.dropWhile isBlank).reverse.dropWhile isBlank).reverse

/-- Split at the commas outside braces; `cur` is the part being read, last character first. -/
def splitCommas (depth : Nat) (cur : List Char) : List Char → List (List Char)
  | [] => [cur.reverse]
  | c :: cs =>
    if c = openBrace then splitCommas (depth + 1) (c :: cur) cs
    else if c = closeBrace then splitCommas (depth - 1) (c :: cur) cs
    else if c = ',' ∧ depth = 0 then cur.reverse :: splitCommas 0 [] cs
    else splitCommas depth (c :: cur) cs

/-- The operands of a line, or of a map: none when nothing is written. -/
def operandTexts (l : List Char) : List (List Char) :=
  if trim l = [] then [] else (splitCommas 0 [] l).map trim

/-- The value of a digit character, hexadecimal letters in either case. -/
def digitValue (c : Char) : Option Nat :=
  if '0' ≤ c ∧ c ≤ '9' then some (c.toNat - '0'.toNat)
  else if 'a' ≤ c ∧ c ≤ 'f' then some (c.toNat - 'a'.toNat + 10)
  else if 'A' ≤ c ∧ c ≤ 'F' then some (c.toNat - 'A'.toNat + 10)
  else none

/-- Digits in a base, most significant first, after the value `acc` of those already read. -/
def readDigits (base : Nat) (acc : Nat) : List Char → Option Nat
  | [] => some acc
  | c :: cs =>
    match digitValue c with
    | none => none
    | some d => if d < base then readDigits base (acc * base + d) cs else none

/-- One or more digits in a base. -/
def readNumeral (base : Nat) : List Char → Option Nat
  | [] => none
  | c :: cs => readDigits base 0 (c :: cs)

/-- A number: decimal, `0x` hexadecimal, or `0b` binary whose digits may be grouped with `_`. -/
def readNat : List Char → Option Nat
  | '0' :: 'x' :: ds => readNumeral 16 ds
  | '0' :: 'b' :: ds => readNumeral 2 (ds.filter fun c => c ≠ '_')
  | ds => readNumeral 10 ds

/-- "A Boolean is `true` or `false`." -/
def readBool (l : List Char) : Option Bool :=
  if l = "true".toList then some true
  else if l = "false".toList then some false
  else none

/-- `page: entry`. -/
def readPair (l : List Char) : Option (Nat × Nat) :=
  match l.dropWhile fun c => c ≠ ':' with
  | [] => none
  | _ :: e =>
    match readNat (trim (l.takeWhile fun c => c ≠ ':')), readNat (trim e) with
    | some p, some v => some (p, v)
    | _, _ => none

/-- All of a list of pairs, if each could be read. -/
def readPairs : List (List Char) → Option PageMap
  | [] => some []
  | t :: ts =>
    match readPair t, readPairs ts with
    | some pe, some m => some (pe :: m)
    | _, _ => none

/-- A map: pairs between braces, nothing between them when empty. -/
def readMap : List Char → Option PageMap
  | [] => none
  | c :: cs =>
    if c = openBrace ∧ cs.getLast? = some closeBrace then readPairs (operandTexts cs.dropLast)
    else none

/-- What an operand of a line is. -/
inductive OperandKind where
  | nat
  | bool
  | map
deriving DecidableEq, Repr

/-- The operands of a line: its naturals in order (a Boolean as one bit) and its map. -/
def readOperands : List OperandKind → List (List Char) → Option (List Nat × PageMap)
  | [], [] => some ([], [])
  | .nat :: ks, t :: ts =>
    match readNat t, readOperands ks ts with
    | some n, some (ns, m) => some (n :: ns, m)
    | _, _ => none
  | .bool :: ks, t :: ts =>
    match readBool t, readOperands ks ts with
    | some b, some (ns, m) => some (b.toNat :: ns, m)
    | _, _ => none
  | .map :: ks, t :: ts =>
    match readMap t, readOperands ks ts with
    | some m, some (ns, _) => some (ns, m)
    | _, _ => none
  | _, _ => none

/-- Code and operands of a mnemonic (30_encoding.md R90). -/
structure LineForm where
  mnemonic : List Char
  op : OpCode
  operands : List OperandKind
deriving DecidableEq, Repr

/-- The mnemonics of 30_encoding.md R90, with the operands in its order. -/
def lineForms : List LineForm :=
  [ ⟨"CONSTRUCT".toList, 0x00#5, [.nat, .nat, .nat, .map]⟩,
    ⟨"TRANSLATE".toList, 0x01#5, [.nat]⟩,
    ⟨"PACK".toList, 0x02#5, [.nat, .bool]⟩,
    ⟨"UNPACK".toList, 0x03#5, [.nat]⟩,
    ⟨"FMTBIN".toList, 0x04#5, [.nat, .nat]⟩,
    ⟨"SPLIT".toList, 0x05#5, [.nat]⟩,
    ⟨"COMPOSE".toList, 0x06#5, [.nat, .nat]⟩,
    ⟨"PTGET".toList, 0x07#5, [.nat]⟩,
    ⟨"FINDFREE".toList, 0x08#5, []⟩,
    ⟨"SELVICT".toList, 0x09#5, []⟩,
    ⟨"RDCNT".toList, 0x0A#5, [.nat]⟩,
    ⟨"RDFS".toList, 0x0B#5, [.nat]⟩,
    ⟨"RDREG".toList, 0x0C#5, [.nat]⟩,
    ⟨"SNAPSHOT".toList, 0x0D#5, []⟩,
    ⟨"PTBUILD".toList, 0x10#5, [.nat, .nat, .map]⟩,
    ⟨"PTSET".toList, 0x11#5, [.nat, .nat]⟩,
    ⟨"EVICT".toList, 0x12#5, [.nat, .nat]⟩ ]

/-- The command of a mnemonic and its operand texts. -/
def assembleForm (mnemonic : List Char) (texts : List (List Char)) : Option Command :=
  match lineForms.find? fun f => f.mnemonic = mnemonic with
  | none => none
  | some f =>
    match readOperands f.operands texts with
    | none => none
    | some (ns, m) =>
      some { op := f.op, arg0 := ns.getD 0 0, arg1 := ns.getD 1 0, arg2 := ns.getD 2 0, map := m }

/-- The command part of a line: comment and expected response dropped. -/
def commandText (l : List Char) : List Char := trim (dropExpected (dropComment l))

/-- The command a line of 30_encoding.md R96 stands for, if it is one. -/
def assembleLine (l : List Char) : Option Command :=
  assembleForm ((commandText l).takeWhile fun c => !isBlank c)
    (operandTexts ((commandText l).dropWhile fun c => !isBlank c))

end Sys2Proof.Machine
end

