-- ==== Sys2Proof/Safety.lean ====
section
/-!
DEFINITION. What claims call a legal configuration, a good block and a good state: the invariants of
10_state.md R25, R28 and R29, as decidable predicates.
-/

namespace Sys2Proof.Machine

/-- The constraints of 00_scope.md R6: three powers of two, both sizes divisible by `S`. -/
abbrev Cfg.Valid (c : Cfg) : Prop :=
  isPow2 c.v = true ∧ isPow2 c.p = true ∧ isPow2 c.s = true ∧ c.v % c.s = 0 ∧ c.p % c.s = 0

/-- One slot and one counter for every page number (10_state.md R24, R26). -/
abbrev Block.Shaped (b : Block) : Prop :=
  b.pt.length = b.cfg.pageCount ∧ b.cnt.length = b.cfg.pageCount

/-- Every slot value is `< 2^entry_bits` (10_state.md R25, R29 item 6). -/
abbrev Block.EntriesFit (b : Block) : Prop :=
  ∀ p, p < b.cfg.pageCount → b.entry p < 2 ^ b.cfg.entryBits

/-- `FS ⊆ [0, frame_count)` (10_state.md R29 item 2). -/
abbrev Block.FramesInRange (b : Block) : Prop := b.fs.bits < 2 ^ b.cfg.frameCount

/-- `FS` is the set of the frames of present pages (10_state.md R29 item 1). -/
abbrev Block.FramesExact (b : Block) : Prop :=
  ∀ f, f < b.cfg.frameCount →
    (b.fs.mem f = true ↔
      ∃ p, p < b.cfg.pageCount ∧ b.isPresent p = true ∧ b.frameOf p = f)

/-- An absent page has count 0 (10_state.md R29 item 3). -/
abbrev Block.AbsentUnused (b : Block) : Prop :=
  ∀ p, p < b.cfg.pageCount → b.isPresent p = false → b.count p = 0

/-- The counters fit the widths of the realisation (10_state.md R27). -/
abbrev Block.CountersFit (b : Block) (pr : Config.Params) : Prop :=
  (∀ p, p < b.cfg.pageCount → Config.fits pr.cntBits (b.count p) = true) ∧
    Config.fits pr.faultBits b.faults = true

/-- A good block: what every state reachable from a successful CONSTRUCT satisfies
(10_state.md R29 items 1, 2, 3 and 6, R27). -/
abbrev Block.Good (b : Block) (pr : Config.Params) : Prop :=
  b.cfg.Valid ∧ b.Shaped ∧ b.EntriesFit ∧ b.FramesInRange ∧ b.FramesExact ∧ b.AbsentUnused ∧
    b.CountersFit pr

/-- A good state: the parameters are consistent and the block, if configured, is good. -/
abbrev State.Good (s : State) : Prop :=
  s.params.wf = true ∧ ∀ b ∈ s.block, b.Good s.params

/-- No two present pages have the same frame (10_state.md R29 item 4). -/
abbrev Block.NoAlias (b : Block) : Prop :=
  ∀ p, p < b.cfg.pageCount → ∀ q, q < b.cfg.pageCount →
    (p ≠ q ∧ b.isPresent p = true ∧ b.isPresent q = true → b.frameOf p ≠ b.frameOf q)

/-- The number of present pages (10_state.md R29 item 4). -/
def Block.residents (b : Block) : Nat := (List.range b.cfg.pageCount).countP b.isPresent

/-- The order SELVICT minimises: lexicographic on `(CNT[p], p)` (43_lfu.md R136). -/
abbrev Block.before (b : Block) (p q : Nat) : Prop :=
  b.count p < b.count q ∨ (b.count p = b.count q ∧ p < q)

/-- A state from which the next step has a meaning. -/
def State.Safe (s : State) : Prop := ∃ t, step s = .next t

end Sys2Proof.Machine
end

