-- ==== Sys2Proof/Certificates/Slice0/Obligations.lean ====
section
/-!
DEFINITION. The statements for the provers. Each docstring names the rule of spec/ it formalises.

Throughout, `s.block = some b` says the block is configured with contents `b`, and
`s.respond r` is the state `s` with the response `r` given and nothing else changed. A response
written without its `info` is an OK response without a warning; the spec states no `info` there, and
the record it then holds, `Info.idle`, is a free value of the model (assumption log 19) that no
statement says anything of but that it is there.
-/

open Sys2Proof Sys2Proof.Machine

/-! ### Reset, the port and the step -/

/-- 70_reset_and_hazards.md R210: after power-on `CONFIGURED` = 0 and no other state has a value. -/
def Obligations.ResetIsUnconfigured : Prop :=
  State.reset.configured = false ∧ State.reset.block = none

/-- 00_scope.md R8: the open parameters and their defaults. That they are fields of the state is the
model's choice (assumption log 2). -/
def Obligations.ResetParametersAreDefaults : Prop :=
  State.reset.params.cntBits = none ∧ State.reset.params.faultBits = none ∧
    State.reset.params.vaBitsPort = none ∧ State.reset.params.maxV = none ∧
    State.reset.params.maxP = none ∧ State.reset.params.initUsage = 0 ∧
    State.reset.params.sep = Char.ofNat 0x20

/-- 00_scope.md R13: a step takes the next command of the host and runs the operation it decodes to
(the premise on the port is assumption log 7 and holds of every operation at the default). -/
def Obligations.StepRunsDecodedOperation : Prop :=
  ∀ (s : State) (c : Command) (rest : List Command) (i : Instr),
    s.inbox = c :: rest → decode c = .ok i → tooWideForPort s.params i = none →
      step s = exec i { s with inbox := rest, issuer := .host }

/-- The model's choice (assumption log 1): with no command presented the block waits unchanged. -/
def Obligations.StepWaitsWithoutCommand : Prop :=
  ∀ s : State, s.inbox = [] → step s = .next s

/-- 30_encoding.md R93: an unassigned `op` ends with ILLEGAL_OP, `info` = the `op`, and changes no
state, whether or not the block is configured. -/
def Obligations.UnassignedOpAnswersIllegal : Prop :=
  ∀ (s : State) (c : Command) (rest : List Command), s.inbox = c :: rest →
    (c.op = 0x0E#5 ∨ c.op = 0x0F#5 ∨ (0x13 ≤ c.op.toNat ∧ c.op.toNat ≤ 0x1F)) →
      step s = .next (State.respond { s with inbox := rest, issuer := .host }
        { status := .illegalOp, info := { value := c.op.toNat } })

/-- 30_encoding.md R94: an internal `op` from the host ends with ILLEGAL_OP exactly as an unassigned
one does. -/
def Obligations.InternalOpRefusedAtPort : Prop :=
  ∀ (s : State) (c : Command) (rest : List Command), s.inbox = c :: rest →
    (c.op = 0x10#5 ∨ c.op = 0x11#5 ∨ c.op = 0x12#5) →
      step s = .next (State.respond { s with inbox := rest, issuer := .host }
        { status := .illegalOp, info := { value := c.op.toNat } })

/-- 60_exceptions.md R188: while UNCONFIGURED every legal operation other than CONSTRUCT ends with
NOT_CONFIGURED and changes no state. -/
def Obligations.UnconfiguredAnswersNotConfigured : Prop :=
  ∀ (s : State) (i : Instr), s.block = none → i.opClass ≠ .internal → i.opcode ≠ 0x00#5 →
    exec i s = .next (s.respond { status := .notConfigured, info := {} })

/-- 30_encoding.md R91: the status numbers. -/
def Obligations.StatusCodesAreThoseOfTheTable : Prop :=
  Status.code .ok = 0#4 ∧ Status.code .configError = 1#4 ∧ Status.code .outOfRangeError = 2#4 ∧
    Status.code .invalidPageError = 3#4 ∧ Status.code .noVictimError = 4#4 ∧
    Status.code .illegalOp = 5#4 ∧ Status.code .notConfigured = 6#4

/-! ### Encoding -/

/-- Every well-formed instruction is decoded back from its command (30_encoding.md R88 to R90; for
the internal operations' operands, assumption log 10). -/
def Obligations.DecodeEncodeRoundTrip : Prop :=
  ∀ i : Instr, i.wf = true → decode (encode i) = .ok i

/-- The decoder gives well-formed instructions only, and the one of the command's own `op`
(30_encoding.md R90: "a decoder needs only `op`"). -/
def Obligations.DecodedIsWellFormedOfItsOp : Prop :=
  ∀ (c : Command) (i : Instr), decode c = .ok i →
    i.wf = true ∧ i.opcode = c.op ∧ (encode i).op = c.op

/-- The order in which a map's pairs are written does not matter (30_encoding.md R88: a finite map,
keys unique; the form it is kept in is assumption log 5). -/
def Obligations.MapOrderDoesNotMatter : Prop :=
  ∀ m m' : PageMap, m.Perm m' → (m.map Prod.fst).Nodup → PageMap.canon m = PageMap.canon m'

/-- The codes of 30_encoding.md R90, on one command of each family. -/
def Obligations.DecodeReadsTheTable : Prop :=
  decode { op := 0b00000#5, arg0 := 512, arg1 := 256, arg2 := 32, map := [(3, 255)] } =
      .ok (.construct 512 256 32 [(3, 255)]) ∧
    decode { op := 0b00001#5, arg0 := 5 } = .ok (.translate 5) ∧
    decode { op := 0b00010#5, arg0 := 5, arg1 := 1 } = .ok (.pack 5 true) ∧
    decode { op := 0b00111#5, arg0 := 8 } = .ok (.ptget 8) ∧
    decode { op := 0b01000#5 } = .ok .findfree ∧
    decode { op := 0b01001#5 } = .ok .selvict ∧
    decode { op := 0b01101#5 } = .ok .snapshot ∧
    decode { op := 0b10010#5, arg0 := 1, arg1 := 2 } = .ok (.evict 1 2) ∧
    decode { op := 0b01110#5 } = .error (.unassigned 0b01110#5)

/-- 30_encoding.md R96: text after `;` is a comment. -/
def Obligations.AssemblerIgnoresComments : Prop :=
  ∀ line comment : List Char, assembleLine (line ++ ';' :: comment) = assembleLine line

/-! ### The codec -/

/-- 40_codec.md R110: PACK's answer, its range, its reserved bits, and its command. -/
def Obligations.PackBuildsEntry : Prop :=
  ∀ (s : State) (b : Block) (frame : Nat) (present : Bool), s.block = some b →
    ∃ entry : Nat,
      entry = (frame &&& (2 ^ b.cfg.frameBits - 1)) |||
        (if present then 2 ^ b.cfg.frameBits else 0) ∧
      exec (.pack frame present) s = .next (s.respond { res0 := entry }) ∧
      entry < 2 ^ (b.cfg.frameBits + 1) ∧ 2 ^ (b.cfg.frameBits + 1) ≤ 2 ^ b.cfg.entryBits ∧
      (∀ k, b.cfg.frameBits < k → entry.testBit k = false) ∧
      ∀ c : Command, c.op = 0x02#5 → c.arg0 = frame → c.arg1 = (if present then 1 else 0) →
        decode c = .ok (.pack frame present)

/-- 40_codec.md R112: UNPACK's answer, which ignores every bit above the present bit, and its
command. -/
def Obligations.UnpackReadsFields : Prop :=
  ∀ (s : State) (b : Block) (entry : Nat), s.block = some b →
    exec (.unpack entry) s = .next (s.respond
      { res0 := entry &&& (2 ^ b.cfg.frameBits - 1),
        res1 := if entry &&& 2 ^ b.cfg.frameBits ≠ 0 then 1 else 0 }) ∧
    (∀ entry' : Nat, entry' % 2 ^ (b.cfg.frameBits + 1) = entry % 2 ^ (b.cfg.frameBits + 1) →
      exec (.unpack entry') s = exec (.unpack entry) s) ∧
    ∀ c : Command, c.op = 0x03#5 → c.arg0 = entry → decode c = .ok (.unpack entry)

/-- 40_codec.md R113: the four laws of PACK and UNPACK under a legal configuration. -/
def Obligations.PackUnpackLaws : Prop :=
  ∀ c : Cfg, c.Valid →
    (∀ (frame : Nat) (present : Bool), frame < c.frameCount →
      c.present (c.pack frame present) = present ∧ c.frame (c.pack frame present) = frame) ∧
    (∀ (frame : Nat) (present : Bool),
      c.present (c.pack frame present) = present ∧
        c.frame (c.pack frame present) = frame &&& c.frameMask) ∧
    (∀ entry : Nat,
      c.pack (c.frame entry) (c.present entry) = entry &&& (c.frameMask ||| c.presentMask)) ∧
    (∀ (f g : Nat) (x y : Bool), f < c.frameCount → g < c.frameCount →
      c.pack f x = c.pack g y → f = g ∧ x = y)

/-- 40_codec.md R114: the string of FMTBIN, read from its least significant end: digit i stands
after i/4 separators, and a separator stands before digit i when i is a positive multiple of 4; the
length; the refusal outside the domain; the command. -/
def Obligations.FmtbinGroupsDigits : Prop :=
  ∀ (s : State) (b : Block) (value width : Nat), s.block = some b →
    (1 ≤ width → value < 2 ^ width →
      ∃ l : List Char, exec (.fmtbin value width) s = .next (s.respond { list := .chars l }) ∧
        l.length = width + (width + 3) / 4 - 1 ∧
        (∀ i, i < width →
          l.reverse[i + i / 4]? = some (if value.testBit i then '1' else '0')) ∧
        (∀ i, 0 < i → i < width → i % 4 = 0 → l.reverse[i + i / 4 - 1]? = some s.params.sep)) ∧
    ((width = 0 ∨ 2 ^ width ≤ value) →
      exec (.fmtbin value width) s = .refused (.fmtbinOutsideDomain value width)) ∧
    ∀ c : Command, c.op = 0x04#5 → c.arg0 = value → c.arg1 = width →
      decode c = .ok (.fmtbin value width)

/-! ### The page table -/

/-- 41_page_table.md R123: PTGET's answer and its error. -/
def Obligations.PtgetReadsSlot : Prop :=
  ∀ (s : State) (b : Block) (page : Nat), s.block = some b →
    (page < b.cfg.pageCount →
      exec (.ptget page) s = .next (s.respond { res0 := b.entry page })) ∧
    (b.cfg.pageCount ≤ page →
      exec (.ptget page) s = .next (s.respond
        { status := .outOfRangeError,
          info := { page := page, value := page, bound := b.cfg.pageCount } })) ∧
    ∀ c : Command, c.op = 0x07#5 → c.arg0 = page → decode c = .ok (.ptget page)

/-- 41_page_table.md R125: PTSET, invoked by the block (assumption log 3) within its preconditions,
overwrites one slot and writes nothing else. -/
def Obligations.PtsetWritesOneSlot : Prop :=
  ∀ (s : State) (b : Block) (page entry : Nat), s.block = some b → s.issuer = .block →
    page < b.cfg.pageCount → entry < 2 ^ b.cfg.entryBits →
      (Instr.ptset page entry).opcode = 0x11#5 ∧
      exec (.ptset page entry) s =
        .next ((s.withBlock { b with pt := b.pt.set page entry }).respond {}) ∧
      (b.Shaped → ∀ q, Block.entry { b with pt := b.pt.set page entry } q =
        if q = page then entry else b.entry q)

/-- 41_page_table.md R125, 92_eei_decisions.md D21: outside its preconditions PTSET has no meaning. -/
def Obligations.PtsetRefusedOutsidePreconditions : Prop :=
  ∀ (s : State) (b : Block) (page entry : Nat), s.block = some b → s.issuer = .block →
    (b.cfg.pageCount ≤ page ∨ 2 ^ b.cfg.entryBits ≤ entry) →
      exec (.ptset page entry) s = .refused (.ptsetOutsidePrecondition page entry)

/-- 41_page_table.md R120: PTBUILD, invoked by the block (assumption log 3), ends with the first
violation in increasing order of page number, range before width; on entries that pass its checks it
returns the table of zeros with the entries laid over it, and the warning bit of R121. It writes no
state. -/
def Obligations.PtbuildReturnsTable : Prop :=
  ∀ (s : State) (pageCount entryBits : Nat) (init : PageMap), s.issuer = .block →
    1 ≤ pageCount → 5 ≤ entryBits → init.Ascending →
    (Instr.ptbuild pageCount entryBits init).opcode = 0x10#5 ∧
    (∀ (before after : PageMap) (q e : Nat), init = before ++ (q, e) :: after →
      (∀ pe ∈ before, pe.1 < pageCount ∧ pe.2 < 2 ^ entryBits) →
      (pageCount ≤ q → exec (.ptbuild pageCount entryBits init) s = .next (s.respond
        { status := .configError,
          info := { subcode := 6, page := q, value := q, bound := pageCount } })) ∧
      (q < pageCount → 2 ^ entryBits ≤ e →
        exec (.ptbuild pageCount entryBits init) s = .next (s.respond
          { status := .configError,
            info := { subcode := 7, page := q, value := e, bound := 2 ^ entryBits } }))) ∧
    ((∀ pe ∈ init, pe.1 < pageCount ∧ pe.2 < 2 ^ entryBits) →
      ∃ (t : List Nat) (warn : Bool) (info : Info),
        exec (.ptbuild pageCount entryBits init) s =
          .next (s.respond { warn := warn, info := info, list := .table t }) ∧
        t.length = pageCount ∧
        (∀ pe ∈ init, t[pe.1]? = some pe.2) ∧
        (∀ q, q < pageCount → (∀ pe ∈ init, pe.1 ≠ q) → t[q]? = some 0) ∧
        (warn = true ↔ ∃ p q, p < pageCount ∧ q < pageCount ∧ p ≠ q ∧
          presentBit (entryBits - 5) (t.getD p 0) = true ∧
          presentBit (entryBits - 5) (t.getD q 0) = true ∧
          frameField (entryBits - 5) (t.getD p 0) = frameField (entryBits - 5) (t.getD q 0)))

/-! ### The frame allocator -/

/-- 42_frame_allocator.md R130: FINDFREE answers the lowest-numbered free frame, or none; once it has
answered none, it answers none after every further operation but CONSTRUCT. -/
def Obligations.FindfreeAnswersLowestFree : Prop :=
  ∀ (s : State) (b : Block), s.block = some b →
    (∀ f, f < b.cfg.frameCount → b.fs.mem f = false → (∀ g, g < f → b.fs.mem g = true) →
      exec .findfree s = .next (s.respond { res0 := f, res1 := 1 })) ∧
    ((∀ f, f < b.cfg.frameCount → b.fs.mem f = true) →
      exec .findfree s = .next (s.respond { res0 := 0, res1 := 0 }) ∧
      ∀ (i : Instr) (t : State), s.issuer = .host → i.opcode ≠ 0x00#5 → exec i s = .next t →
        exec .findfree t = .next (t.respond { res0 := 0, res1 := 0 })) ∧
    ∀ c : Command, c.op = 0x08#5 → decode c = .ok .findfree

/-- 42_frame_allocator.md R131, one miss: when the bound frames are exactly 0 to k − 1, a miss
receives frame k and leaves 0 to k bound. -/
def Obligations.FramesHandedOutInOrder : Prop :=
  ∀ (s : State) (b : Block) (va k : Nat), s.block = some b → b.cfg.Valid →
    (∀ f, b.fs.mem f = true ↔ f < k) → k < b.cfg.frameCount →
    va / b.cfg.s < b.cfg.pageCount → b.isPresent (va / b.cfg.s) = false →
      ∃ b' : Block,
        exec (.translate va) s =
          .next ((s.withBlock b').respond { res0 := k * b.cfg.s + va % b.cfg.s }) ∧
        ∀ f, b'.fs.mem f = true ↔ f < k + 1

/-! ### The replacement policy -/

/-- 43_lfu.md R135: SELVICT answers the present page with the smallest count, ties to the lowest page
number; with no present page it ends with NoVictimError. -/
def Obligations.SelvictAnswersLeastUsed : Prop :=
  ∀ (s : State) (b : Block), s.block = some b →
    (∀ v, v < b.cfg.pageCount → b.isPresent v = true →
      (∀ q, q < b.cfg.pageCount → b.isPresent q = true → q ≠ v →
        b.count v < b.count q ∨ (b.count v = b.count q ∧ v < q)) →
      exec .selvict s = .next (s.respond { res0 := v })) ∧
    ((∀ q, q < b.cfg.pageCount → b.isPresent q = false) →
      exec .selvict s = .next (s.respond { status := .noVictimError, info := {} })) ∧
    ∀ c : Command, c.op = 0x09#5 → decode c = .ok .selvict

/-- 43_lfu.md R136: the order is a strict total order, so over a non-empty set of present pages the
minimum exists and is unique, and SELVICT answers it. -/
def Obligations.PolicyOrderHasUniqueMinimum : Prop :=
  ∀ b : Block,
    (∀ p, ¬ b.before p p) ∧ (∀ p q r, b.before p q → b.before q r → b.before p r) ∧
    (∀ p q, p ≠ q → b.before p q ∨ b.before q p) ∧
    ∀ s : State, s.block = some b → (∃ p, p < b.cfg.pageCount ∧ b.isPresent p = true) →
      ∃ v, (v < b.cfg.pageCount ∧ b.isPresent v = true ∧
          ∀ q, q < b.cfg.pageCount → b.isPresent q = true → q ≠ v → b.before v q) ∧
        exec .selvict s = .next (s.respond { res0 := v }) ∧
        ∀ v', (v' < b.cfg.pageCount ∧ b.isPresent v' = true ∧
          ∀ q, q < b.cfg.pageCount → b.isPresent q = true → q ≠ v' → b.before v' q) → v' = v

/-- 43_lfu.md R138: EVICT, invoked by the block (assumption log 3) within its preconditions, empties
the victim's slot and counter, gives its frame to the incoming page with count 1, writes nothing
else, and returns the frame. -/
def Obligations.EvictReassignsFrame : Prop :=
  ∀ (s : State) (b : Block) (victim incoming : Nat), s.block = some b → s.issuer = .block →
    victim < b.cfg.pageCount → incoming < b.cfg.pageCount →
    b.isPresent victim = true → b.isPresent incoming = false →
      (Instr.evict victim incoming).opcode = 0x12#5 ∧
      ∃ b' : Block,
        exec (.evict victim incoming) s =
          .next ((s.withBlock b').respond { res0 := b.frameOf victim }) ∧
        b'.cfg = b.cfg ∧ b'.fs = b.fs ∧ b'.faults = b.faults ∧
        (b.Shaped → b'.Shaped ∧
          b'.entry victim = 0 ∧ b'.count victim = 0 ∧
          b'.entry incoming = b.frameOf victim + 2 ^ b.cfg.frameBits ∧ b'.count incoming = 1 ∧
          b'.isPresent incoming = true ∧ b'.frameOf incoming = b.frameOf victim ∧
          ∀ q, q ≠ victim → q ≠ incoming →
            b'.entry q = b.entry q ∧ b'.count q = b.count q)

/-- 43_lfu.md R138, 92_eei_decisions.md D21: outside its preconditions EVICT has no meaning. -/
def Obligations.EvictRefusedOutsidePreconditions : Prop :=
  ∀ (s : State) (b : Block) (victim incoming : Nat), s.block = some b → s.issuer = .block →
    (b.cfg.pageCount ≤ victim ∨ b.cfg.pageCount ≤ incoming ∨ b.isPresent victim = false ∨
      b.isPresent incoming = true) →
      exec (.evict victim incoming) s = .refused (.evictOutsidePrecondition victim incoming)

/-! ### The translator -/

/-- 44_translator.md R145: SPLIT's answer, its error, its boundaries under a legal configuration, and
its command. -/
def Obligations.SplitDerivesPageAndOffset : Prop :=
  ∀ (s : State) (b : Block) (va : Nat), s.block = some b →
    (va >>> b.cfg.offsetBits < b.cfg.pageCount →
      exec (.split va) s = .next (s.respond
        { res0 := va >>> b.cfg.offsetBits, res1 := va &&& ((1 <<< b.cfg.offsetBits) - 1) })) ∧
    (b.cfg.pageCount ≤ va >>> b.cfg.offsetBits →
      exec (.split va) s = .next (s.respond
        { status := .invalidPageError,
          info := { page := va >>> b.cfg.offsetBits, value := va, bound := b.cfg.pageCount } })) ∧
    (b.cfg.Valid →
      va >>> b.cfg.offsetBits = va / b.cfg.s ∧
      va &&& ((1 <<< b.cfg.offsetBits) - 1) = va % b.cfg.s ∧
      (va >>> b.cfg.offsetBits < b.cfg.pageCount ↔ va < b.cfg.v)) ∧
    ∀ c : Command, c.op = 0x05#5 → c.arg0 = va → decode c = .ok (.split va)

/-- 44_translator.md R147: COMPOSE's answer, total on naturals; within the contract it is
`frame × S + offset`, below `P`; and its command. -/
def Obligations.ComposeBuildsPhysicalAddress : Prop :=
  ∀ (s : State) (b : Block) (frame offset : Nat), s.block = some b →
    exec (.compose frame offset) s = .next (s.respond
      { res0 := (frame <<< b.cfg.offsetBits) ||| offset }) ∧
    (b.cfg.Valid → frame < b.cfg.frameCount → offset < b.cfg.s →
      (frame <<< b.cfg.offsetBits) ||| offset = frame * b.cfg.s + offset ∧
      (frame <<< b.cfg.offsetBits) ||| offset < b.cfg.p) ∧
    ∀ c : Command, c.op = 0x06#5 → c.arg0 = frame → c.arg1 = offset →
      decode c = .ok (.compose frame offset)

/-- 44_translator.md R150: the five ends of TRANSLATE. Invalid page; hit; miss into the
lowest-numbered free frame; miss by evicting the least used present page; miss with no victim. -/
def Obligations.TranslateFollowsItsStateMachine : Prop :=
  ∀ (s : State) (b : Block) (va vpn offset : Nat), s.block = some b →
    vpn = va >>> b.cfg.offsetBits → offset = va &&& ((1 <<< b.cfg.offsetBits) - 1) →
    (b.cfg.pageCount ≤ vpn →
      exec (.translate va) s = .next (s.respond
        { status := .invalidPageError,
          info := { page := vpn, value := va, bound := b.cfg.pageCount } })) ∧
    (vpn < b.cfg.pageCount → b.isPresent vpn = true →
      exec (.translate va) s = .next ((s.withBlock
          { b with cnt := b.cnt.set vpn (incW s.params.cntBits (b.count vpn)) }).respond
        { res0 := (b.frameOf vpn <<< b.cfg.offsetBits) ||| offset })) ∧
    (vpn < b.cfg.pageCount → b.isPresent vpn = false →
      ∀ f, f < b.cfg.frameCount → b.fs.mem f = false → (∀ g, g < f → b.fs.mem g = true) →
        exec (.translate va) s = .next ((s.withBlock
            { b with
              pt := b.pt.set vpn ((f &&& (2 ^ b.cfg.frameBits - 1)) ||| 2 ^ b.cfg.frameBits)
              cnt := b.cnt.set vpn 1
              fs := b.fs.insert f
              faults := incW s.params.faultBits b.faults }).respond
          { res0 := (f <<< b.cfg.offsetBits) ||| offset })) ∧
    (vpn < b.cfg.pageCount → b.isPresent vpn = false →
      (∀ f, f < b.cfg.frameCount → b.fs.mem f = true) →
      ∀ v, v < b.cfg.pageCount → b.isPresent v = true →
        (∀ q, q < b.cfg.pageCount → b.isPresent q = true → q ≠ v → b.before v q) →
        exec (.translate va) s = .next ((s.withBlock
            { b with
              pt := (b.pt.set v 0).set vpn
                ((b.frameOf v &&& (2 ^ b.cfg.frameBits - 1)) ||| 2 ^ b.cfg.frameBits)
              cnt := (b.cnt.set v 0).set vpn 1
              faults := incW s.params.faultBits b.faults }).respond
          { res0 := (b.frameOf v <<< b.cfg.offsetBits) ||| offset })) ∧
    (vpn < b.cfg.pageCount → (∀ f, f < b.cfg.frameCount → b.fs.mem f = true) →
      (∀ q, q < b.cfg.pageCount → b.isPresent q = false) →
      exec (.translate va) s = .next ((s.withBlock
          { b with faults := incW s.params.faultBits b.faults }).respond
        { status := .noVictimError, info := {} })) ∧
    ∀ c : Command, c.op = 0x01#5 → c.arg0 = va → decode c = .ok (.translate va)

/-- 44_translator.md R151: a TRANSLATE ends in exactly one of three ways. -/
def Obligations.TranslateHasThreeOutcomes : Prop :=
  ∀ (s : State) (b : Block) (va : Nat), s.block = some b →
    ∃ (t : State) (r : Response), exec (.translate va) s = .next t ∧
      t.responses = r :: s.responses ∧
      (r.status = .ok ∨ r.status = .invalidPageError ∨ r.status = .noVictimError)

/-- 20_memory.md R52: every physical address TRANSLATE returns is a frame and an offset within their
fields, hence below `P`, with the offset of the virtual address. -/
def Obligations.PhysicalAddressInRange : Prop :=
  ∀ (s t : State) (b : Block) (va : Nat) (r : Response), s.block = some b → b.cfg.Valid →
    exec (.translate va) s = .next t → t.responses = r :: s.responses → r.status = .ok →
      ∃ frame offset, frame < b.cfg.frameCount ∧ offset < b.cfg.s ∧
        r.res0 = (frame <<< b.cfg.offsetBits) ||| offset ∧ r.res0 < b.cfg.p ∧
        r.res0 % b.cfg.s = va % b.cfg.s

/-- 44_translator.md R152 items 1 and 2: after a successful TRANSLATE the page is present, and the
same TRANSLATE again is a hit with the same answer that writes only the page's counter. -/
def Obligations.TranslateAgainIsAHit : Prop :=
  ∀ (s t : State) (b : Block) (va : Nat) (r : Response), s.block = some b →
    b.cfg.Valid → b.Shaped →
    exec (.translate va) s = .next t → t.responses = r :: s.responses → r.status = .ok →
      ∃ b1 : Block, t.block = some b1 ∧ b1.isPresent (va / b.cfg.s) = true ∧
        exec (.translate va) t = .next ((t.withBlock
          { b1 with
            cnt := b1.cnt.set (va / b.cfg.s)
              (incW s.params.cntBits (b1.count (va / b.cfg.s))) }).respond { res0 := r.res0 })

/-- 44_translator.md R152 item 3: the next address of the same page translates into the same frame
with its own offset. -/
def Obligations.SamePageSharesFrame : Prop :=
  ∀ (s t : State) (b : Block) (va va' : Nat) (r : Response), s.block = some b →
    b.cfg.Valid → b.Shaped → va' / b.cfg.s = va / b.cfg.s →
    exec (.translate va) s = .next t → t.responses = r :: s.responses → r.status = .ok →
      ∃ u : State, exec (.translate va') t = .next u ∧
        u.responses = { res0 := r.res0 - va % b.cfg.s + va' % b.cfg.s } :: t.responses

/-- 43_lfu.md R137: `frame_count = 0` is impossible in a legal configuration; TRANSLATE never ends
with NoVictimError in a good state; SELVICT does whenever no page is present. -/
def Obligations.NoVictimUnreachableInTranslate : Prop :=
  (∀ c : Cfg, c.Valid → 1 ≤ c.frameCount) ∧
  (∀ (s t : State) (b : Block) (va : Nat) (r : Response), s.block = some b → b.Good s.params →
    exec (.translate va) s = .next t → t.responses = r :: s.responses →
      r.status ≠ .noVictimError) ∧
  (∀ (s : State) (b : Block), s.block = some b →
    (∀ q, q < b.cfg.pageCount → b.isPresent q = false) →
      exec .selvict s = .next (s.respond { status := .noVictimError, info := {} }))

/-! ### The host interface -/

/-- 10_state.md R34: nothing has a value after power-on, and what a successful CONSTRUCT installs
(with the success conditions of 45_host_interface.md R160). -/
def Obligations.ConstructInstallsState : Prop :=
  State.reset.block = none ∧
  ∀ (s : State) (v p sz : Nat) (init : PageMap),
    (∃ k, sz = 2 ^ k) → (∃ k, v = 2 ^ k) → (∃ k, p = 2 ^ k) → v % sz = 0 → p % sz = 0 →
    init.Ascending →
    (∀ pe ∈ init, pe.1 < v / sz ∧ pe.2 < 2 ^ (Nat.log2 (p / sz) + 5)) →
    (∀ m, s.params.maxV = some m → v ≤ m) → (∀ m, s.params.maxP = some m → p ≤ m) →
      ∃ (b : Block) (r : Response),
        exec (.construct v p sz init) s = .next ((s.withBlock b).respond r) ∧
        r.status = .ok ∧ r.res0 = 0 ∧ r.res1 = 0 ∧ r.list = .empty ∧
        b.cfg = { v := v, p := p, s := sz } ∧
        b.cfg.pageCount * sz = v ∧ b.cfg.frameCount * sz = p ∧
        b.pt.length = v / sz ∧ b.cnt.length = v / sz ∧
        (∀ pe ∈ init, b.entry pe.1 = pe.2) ∧
        (∀ q, q < v / sz → (∀ pe ∈ init, pe.1 ≠ q) → b.entry q = 0) ∧
        (∀ q, q < v / sz →
          b.count q = if b.isPresent q then s.params.initUsage else 0) ∧
        (∀ f, b.fs.mem f = true ↔
          ∃ q, q < v / sz ∧ b.isPresent q = true ∧ b.frameOf q = f) ∧
        b.faults = 0

/-- 60_exceptions.md R183: the ConfigError sub-codes in the order they are tested, with their
payloads; the state is unchanged. -/
def Obligations.ConstructReportsFirstViolation : Prop :=
  ∀ (s : State) (v p sz : Nat) (init : PageMap),
    ((¬ ∃ k, sz = 2 ^ k) → exec (.construct v p sz init) s =
      .next (s.respond { status := .configError, info := { subcode := 1, value := sz } })) ∧
    ((∃ k, sz = 2 ^ k) → (¬ ∃ k, v = 2 ^ k) → exec (.construct v p sz init) s =
      .next (s.respond { status := .configError, info := { subcode := 2, value := v } })) ∧
    ((∃ k, sz = 2 ^ k) → (∃ k, v = 2 ^ k) → (¬ ∃ k, p = 2 ^ k) →
      exec (.construct v p sz init) s =
        .next (s.respond { status := .configError, info := { subcode := 3, value := p } })) ∧
    ((∃ k, sz = 2 ^ k) → (∃ k, v = 2 ^ k) → (∃ k, p = 2 ^ k) →
      (v % sz ≠ 0 → exec (.construct v p sz init) s = .next (s.respond
        { status := .configError, info := { subcode := 4, value := v, bound := sz } })) ∧
      (v % sz = 0 → p % sz ≠ 0 → exec (.construct v p sz init) s = .next (s.respond
        { status := .configError, info := { subcode := 5, value := p, bound := sz } })) ∧
      (v % sz = 0 → p % sz = 0 →
        ∀ (before after : PageMap) (q e : Nat), init = before ++ (q, e) :: after →
          (∀ pe ∈ before, pe.1 < v / sz ∧ pe.2 < 2 ^ (Nat.log2 (p / sz) + 5)) →
          (v / sz ≤ q → exec (.construct v p sz init) s = .next (s.respond
            { status := .configError,
              info := { subcode := 6, page := q, value := q, bound := v / sz } })) ∧
          (q < v / sz → 2 ^ (Nat.log2 (p / sz) + 5) ≤ e →
            exec (.construct v p sz init) s = .next (s.respond
              { status := .configError,
                info := { subcode := 7, page := q, value := e,
                          bound := 2 ^ (Nat.log2 (p / sz) + 5) } }))))

/-- 10_state.md R35: a CONSTRUCT that ends with an error ends with ConfigError and changes no state:
all it does is respond. -/
def Obligations.FailedConstructChangesNothing : Prop :=
  ∀ (s t : State) (v p sz : Nat) (init : PageMap) (r : Response),
    exec (.construct v p sz init) s = .next t → t.responses = r :: s.responses →
    r.status ≠ .ok → r.status = .configError ∧ t = s.respond r

/-- 10_state.md R36: what a successful CONSTRUCT installs does not depend on the previous state of
the block. That the two responses agree in `info` too when there is no warning is the model's choice
(assumption log 19). -/
def Obligations.ConstructForgetsThePast : Prop :=
  ∀ (s s' t t' : State) (v p sz : Nat) (init : PageMap) (r : Response), s.params = s'.params →
    exec (.construct v p sz init) s = .next t → t.responses = r :: s.responses → r.status = .ok →
    exec (.construct v p sz init) s' = .next t' →
      t'.block = t.block ∧ t.block.isSome = true ∧ t'.responses = r :: s'.responses

/-- 41_page_table.md R121 and 60_exceptions.md R186: when the warning is given and what its payload
names; a CONSTRUCT that fails does not warn. -/
def Obligations.ConstructWarnsOfDuplicateClaims : Prop :=
  ∀ (s t : State) (v p sz : Nat) (init : PageMap) (r : Response),
    exec (.construct v p sz init) s = .next t → t.responses = r :: s.responses →
    (r.status ≠ .ok → r.warn = false) ∧
    (r.status = .ok → ∃ b : Block, t.block = some b ∧
      (r.warn = true ↔ ∃ p1 p2, p1 < b.cfg.pageCount ∧ p2 < b.cfg.pageCount ∧ p1 ≠ p2 ∧
        b.isPresent p1 = true ∧ b.isPresent p2 = true ∧ b.frameOf p1 = b.frameOf p2) ∧
      (r.warn = true → ∃ f p1 p2,
        r.info = { subcode := 0, page := p1, value := p2, bound := f } ∧
        p1 < p2 ∧ p2 < b.cfg.pageCount ∧
        b.isPresent p1 = true ∧ b.isPresent p2 = true ∧ b.frameOf p1 = f ∧ b.frameOf p2 = f ∧
        (∀ q, q < p2 → b.isPresent q = true → b.frameOf q = f → q = p1) ∧
        (∀ q1 q2, q1 < b.cfg.pageCount → q2 < b.cfg.pageCount → q1 ≠ q2 →
          b.isPresent q1 = true → b.isPresent q2 = true → b.frameOf q1 = b.frameOf q2 →
          f ≤ b.frameOf q1)))

/-- The model's choice (assumption log 8): an otherwise acceptable CONSTRUCT above a finite `MAX_V` or
`MAX_P` ends with ConfigError and changes no state, whatever payload it carries. -/
def Obligations.ConstructAboveLimitIsTurnedAway : Prop :=
  ∀ (s : State) (v p sz : Nat) (init : PageMap),
    (∃ k, sz = 2 ^ k) → (∃ k, v = 2 ^ k) → (∃ k, p = 2 ^ k) → v % sz = 0 → p % sz = 0 →
    (∀ pe ∈ init, pe.1 < v / sz ∧ pe.2 < 2 ^ (Nat.log2 (p / sz) + 5)) →
    (∃ m, (s.params.maxV = some m ∧ m < v) ∨ (s.params.maxP = some m ∧ m < p)) →
      ∃ info : Info, exec (.construct v p sz init) s =
        .next (s.respond { status := .configError, info := info })

/-- 45_host_interface.md R166: RDCNT's answer, 0 for an absent page of a good block, and its error. -/
def Obligations.RdcntReadsCounter : Prop :=
  ∀ (s : State) (b : Block) (page : Nat), s.block = some b →
    (page < b.cfg.pageCount →
      exec (.rdcnt page) s = .next (s.respond { res0 := b.count page }) ∧
      (b.Good s.params → b.isPresent page = false →
        exec (.rdcnt page) s = .next (s.respond { res0 := 0 }))) ∧
    (b.cfg.pageCount ≤ page →
      exec (.rdcnt page) s = .next (s.respond
        { status := .outOfRangeError,
          info := { page := page, value := page, bound := b.cfg.pageCount } })) ∧
    ∀ c : Command, c.op = 0x0A#5 → c.arg0 = page → decode c = .ok (.rdcnt page)

/-- 45_host_interface.md R167: RDFS's answer and its error. -/
def Obligations.RdfsTestsMembership : Prop :=
  ∀ (s : State) (b : Block) (frame : Nat), s.block = some b →
    (frame < b.cfg.frameCount →
      exec (.rdfs frame) s = .next (s.respond { res0 := if b.fs.mem frame then 1 else 0 })) ∧
    (b.cfg.frameCount ≤ frame →
      exec (.rdfs frame) s = .next (s.respond
        { status := .outOfRangeError,
          info := { page := frame, value := frame, bound := b.cfg.frameCount } })) ∧
    ∀ c : Command, c.op = 0x0B#5 → c.arg0 = frame → decode c = .ok (.rdfs frame)

/-- 10_state.md R37 and 45_host_interface.md R168: the sixteen registers, and the reserved
selectors. `FS_COUNT` counts the frames in range that are members. -/
def Obligations.RdregReadsRegisterMap : Prop :=
  ∀ (s : State) (b : Block) (sel : Nat), s.block = some b → b.FramesInRange →
    (∀ value, [1, b.cfg.v, b.cfg.p, b.cfg.s, b.cfg.v / b.cfg.s, b.cfg.p / b.cfg.s,
        Nat.log2 b.cfg.s, Nat.log2 (b.cfg.v / b.cfg.s), Nat.log2 (b.cfg.p / b.cfg.s),
        Nat.log2 (b.cfg.p / b.cfg.s) + 5, 2 ^ Nat.log2 (b.cfg.p / b.cfg.s) - 1,
        2 ^ Nat.log2 (b.cfg.p / b.cfg.s), 2 ^ Nat.log2 b.cfg.s - 1, 5, b.faults,
        ((List.range b.cfg.frameCount).filter b.fs.mem).length][sel]? = some value →
      exec (.rdreg sel) s = .next (s.respond { res0 := value })) ∧
    (16 ≤ sel → exec (.rdreg sel) s = .next (s.respond
      { status := .outOfRangeError,
        info := { page := sel, value := sel, bound := 16 } })) ∧
    ∀ c : Command, c.op = 0x0C#5 → c.arg0 = sel → decode c = .ok (.rdreg sel)

/-- 45_host_interface.md R169: SNAPSHOT's answer, one row for every page, in increasing order. -/
def Obligations.SnapshotListsEveryPage : Prop :=
  ∀ (s : State) (b : Block), s.block = some b →
    (∃ rows : List Row, exec .snapshot s = .next (s.respond { list := .rows rows }) ∧
      rows.length = b.cfg.pageCount ∧
      ∀ p, p < b.cfg.pageCount → rows[p]? = some
        { page := p, entry := b.entry p, frame := b.frameOf p, present := b.isPresent p }) ∧
    ∀ c : Command, c.op = 0x0D#5 → decode c = .ok .snapshot

/-! ### Frames and rules of the whole machine -/

/-- Every operation that completes gives exactly one response and leaves the parameters and the port
as they are (00_scope.md R13). -/
def Obligations.EveryOperationRespondsOnce : Prop :=
  ∀ (s t : State) (i : Instr), exec i s = .next t →
    (∃ r, t.responses = r :: s.responses) ∧ t.params = s.params ∧ t.inbox = s.inbox ∧
      t.issuer = s.issuer

/-- The model's choice (assumption log 19): a completed operation whose status is OK and that gives no
warning has the free record in `info`, whichever operation it is and whoever invoked it. -/
def Obligations.SilentResponseCarriesFreeInfo : Prop :=
  ∀ (s t : State) (i : Instr) (r : Response), exec i s = .next t →
    t.responses = r :: s.responses → r.status = .ok → r.warn = false → r.info = Info.idle

/-- 10_state.md R32: a command whose `op` is not CONSTRUCT or TRANSLATE changes none of `CFG`, `PT`,
`CNT`, `FS` and `FAULTS`. -/
def Obligations.OnlyEntryPointsWriteTheBlock : Prop :=
  ∀ (s t : State) (c : Command) (rest : List Command), s.inbox = c :: rest → c.op ≠ 0x00#5 →
    c.op ≠ 0x01#5 → step s = .next t →
      t.block = s.block ∧ t.params = s.params ∧ t.inbox = rest

/-- 20_memory.md R57: a probe answers the same when it is repeated. -/
def Obligations.ProbesAreRepeatable : Prop :=
  ∀ (s t : State) (i : Instr), i.opClass = .probe → exec i s = .next t →
    ∃ r, t = s.respond r ∧ exec i t = .next (t.respond r)

/-- 30_encoding.md R92: `warn` is 1 only in the response of a CONSTRUCT whose status is OK. -/
def Obligations.WarnOnlyFromConstruct : Prop :=
  ∀ (s t : State) (i : Instr) (r : Response), s.issuer = .host → exec i s = .next t →
    t.responses = r :: s.responses → r.warn = true →
      r.status = .ok ∧ ∃ v p sz init, i = .construct v p sz init

/-- 60_exceptions.md R190: after a command that ends with an error the results are 0 or empty, and the
state is unchanged but for the fault counter of a TRANSLATE that ends with NoVictimError. -/
def Obligations.ErrorsLeaveTheState : Prop :=
  ∀ (s t : State) (c : Command) (rest : List Command) (r : Response), s.inbox = c :: rest →
    step s = .next t → t.responses = r :: s.responses → r.status ≠ .ok →
      r.res0 = 0 ∧ r.res1 = 0 ∧ r.list = .empty ∧ t.params = s.params ∧ t.inbox = rest ∧
      (∀ b : Block, c.op = 0x01#5 → r.status = .noVictimError → s.block = some b →
        t.block = some { b with faults := incW s.params.faultBits b.faults }) ∧
      ((c.op ≠ 0x01#5 ∨ r.status ≠ .noVictimError) → t.block = s.block)

/-- 10_state.md R30: the fault counter is incremented by the miss path of TRANSLATE and by nothing
else, and is read by RDREG selector 14. -/
def Obligations.FaultCounterCountsMisses : Prop :=
  ∀ (s t : State) (b : Block) (i : Instr), s.issuer = .host → s.block = some b →
    i.opcode ≠ 0x00#5 → exec i s = .next t →
      (∃ b' : Block, t.block = some b' ∧
        ((∃ va, i = .translate va ∧ va >>> b.cfg.offsetBits < b.cfg.pageCount ∧
            b.isPresent (va >>> b.cfg.offsetBits) = false) →
          b'.faults = incW s.params.faultBits b.faults) ∧
        ((¬ ∃ va, i = .translate va ∧ va >>> b.cfg.offsetBits < b.cfg.pageCount ∧
            b.isPresent (va >>> b.cfg.offsetBits) = false) →
          b'.faults = b.faults)) ∧
      exec (.rdreg 14) s = .next (s.respond { res0 := b.faults })

/-- 10_state.md R27: a counter steps by one, stops at the top of a finite width, and never wraps. -/
def Obligations.CountersSaturate : Prop :=
  (∀ n, incW none n = n + 1) ∧
  ∀ w n, n < 2 ^ w →
    incW (some w) n = min (n + 1) (2 ^ w - 1) ∧ n ≤ incW (some w) n ∧ incW (some w) n < 2 ^ w ∧
      (n + 1 < 2 ^ w → incW (some w) n = incW none n)

/-- 10_state.md R28: after CONSTRUCT the only write to `FS` is the insertion of the allocated frame on
the free-frame path of TRANSLATE; nothing removes a frame. -/
def Obligations.FrameSetOnlyGrows : Prop :=
  ∀ (s t : State) (b : Block) (i : Instr), s.issuer = .host → s.block = some b →
    i.opcode ≠ 0x00#5 → exec i s = .next t →
      ∃ b' : Block, t.block = some b' ∧
        (∀ f, b.fs.mem f = true → b'.fs.mem f = true) ∧
        (b'.fs = b.fs ∨ ∃ va f, i = .translate va ∧
          va >>> b.cfg.offsetBits < b.cfg.pageCount ∧
          b.isPresent (va >>> b.cfg.offsetBits) = false ∧
          f < b.cfg.frameCount ∧ b.fs.mem f = false ∧ b'.fs = b.fs.insert f)

/-- 70_reset_and_hazards.md R219: the number of resident pages never decreases, and once `FS` is full
it stays the same. -/
def Obligations.ResidentsNeverDecrease : Prop :=
  ∀ (s t : State) (b : Block) (i : Instr), s.issuer = .host → s.block = some b →
    b.Good s.params → i.opcode ≠ 0x00#5 → exec i s = .next t →
      ∃ b' : Block, t.block = some b' ∧ b.residents ≤ b'.residents ∧
        ((∀ f, f < b.cfg.frameCount → b.fs.mem f = true) → b'.residents = b.residents)

/-- The model's choices: a step has no meaning only where the spec gives none or the port cannot
express the operand (93_implementation_defined.md U6; assumption logs 6, 7 and 11). That no step
faults is assumption log 16, from 70_reset_and_hazards.md R221 and 60_exceptions.md R191; it holds of
itself, `Fault` having no constructor. -/
def Obligations.RefusalsAreOnlyThoseOfTheLog : Prop :=
  (∀ (s : State) (f : Fault), step s ≠ .fault f) ∧
  ∀ (s : State) (why : Refusal), step s = .refused why →
    (∃ value width, why = .fmtbinOutsideDomain value width ∧
      (width = 0 ∨ 2 ^ width ≤ value)) ∨
    (∃ arg, why = .booleanNotOneBit arg ∧ 2 ≤ arg) ∨
    (∃ va w, why = .addressWiderThanPort va ∧ s.params.vaBitsPort = some w ∧ 2 ^ w ≤ va)

/-! ### Invariants -/

/-- The reset state is good (what that asks of the parameters is assumption log 9). -/
def Obligations.ResetIsGood : Prop := State.reset.Good

/-- 10_state.md R25, R27 and R29 items 1, 2, 3 and 6: every step keeps a state good (what that asks of
the parameters is assumption log 9). -/
def Obligations.StepKeepsGood : Prop :=
  ∀ s t : State, s.Good → step s = .next t → t.Good

/-- 10_state.md R29 item 4, first half: a CONSTRUCT that does not warn makes no alias, and every other
command keeps that. -/
def Obligations.StepKeepsNoAlias : Prop :=
  (∀ (s t : State) (v p sz : Nat) (init : PageMap) (r : Response) (b : Block),
    exec (.construct v p sz init) s = .next t → t.responses = r :: s.responses →
    r.status = .ok → r.warn = false → t.block = some b → b.NoAlias) ∧
  ∀ (s t : State) (c : Command) (rest : List Command) (b : Block), s.Good →
    s.inbox = c :: rest → c.op ≠ 0x00#5 → s.block = some b → b.NoAlias → step s = .next t →
      ∃ b' : Block, t.block = some b' ∧ b'.NoAlias

/-- 10_state.md R29 item 4, second half: without an alias the number of present pages is the number of
elements of `FS`. -/
def Obligations.ResidentsEqualFramesWithoutAlias : Prop :=
  ∀ (b : Block) (pr : Config.Params), b.Good pr → b.NoAlias → b.residents = b.fs.card
end

