-- ==== Sys2Proof/Laws/State.lean ====
section
/-!
SUPPORT. One lemma per field per update of the state and of the block, so that no proof unfolds a
record update.
-/

namespace Sys2Proof.Machine

@[simp] theorem State.respond_params (s : State) (r : Response) : (s.respond r).params = s.params := rfl
@[simp] theorem State.respond_block (s : State) (r : Response) : (s.respond r).block = s.block := rfl
@[simp] theorem State.respond_issuer (s : State) (r : Response) : (s.respond r).issuer = s.issuer := rfl
@[simp] theorem State.respond_inbox (s : State) (r : Response) : (s.respond r).inbox = s.inbox := rfl
@[simp] theorem State.respond_responses (s : State) (r : Response) :
    (s.respond r).responses = r :: s.responses := rfl

@[simp] theorem State.raise_params (s : State) (e : OpError) : (s.raise e).params = s.params := rfl
@[simp] theorem State.raise_block (s : State) (e : OpError) : (s.raise e).block = s.block := rfl
@[simp] theorem State.raise_issuer (s : State) (e : OpError) : (s.raise e).issuer = s.issuer := rfl
@[simp] theorem State.raise_inbox (s : State) (e : OpError) : (s.raise e).inbox = s.inbox := rfl
@[simp] theorem State.raise_responses (s : State) (e : OpError) :
    (s.raise e).responses = { status := e.status, info := e.info } :: s.responses := rfl

@[simp] theorem State.withBlock_params (s : State) (b : Block) : (s.withBlock b).params = s.params := rfl
@[simp] theorem State.withBlock_block (s : State) (b : Block) : (s.withBlock b).block = some b := rfl
@[simp] theorem State.withBlock_issuer (s : State) (b : Block) : (s.withBlock b).issuer = s.issuer := rfl
@[simp] theorem State.withBlock_inbox (s : State) (b : Block) : (s.withBlock b).inbox = s.inbox := rfl
@[simp] theorem State.withBlock_responses (s : State) (b : Block) :
    (s.withBlock b).responses = s.responses := rfl

@[simp] theorem State.accept_params (s : State) (l : List Command) : (s.accept l).params = s.params := rfl
@[simp] theorem State.accept_block (s : State) (l : List Command) : (s.accept l).block = s.block := rfl
@[simp] theorem State.accept_issuer (s : State) (l : List Command) : (s.accept l).issuer = .host := rfl
@[simp] theorem State.accept_inbox (s : State) (l : List Command) : (s.accept l).inbox = l := rfl
@[simp] theorem State.accept_responses (s : State) (l : List Command) :
    (s.accept l).responses = s.responses := rfl

@[simp] theorem Block.setEntry_cfg (b : Block) (p e : Nat) : (b.setEntry p e).cfg = b.cfg := rfl
@[simp] theorem Block.setEntry_pt (b : Block) (p e : Nat) : (b.setEntry p e).pt = b.pt.set p e := rfl
@[simp] theorem Block.setEntry_cnt (b : Block) (p e : Nat) : (b.setEntry p e).cnt = b.cnt := rfl
@[simp] theorem Block.setEntry_fs (b : Block) (p e : Nat) : (b.setEntry p e).fs = b.fs := rfl
@[simp] theorem Block.setEntry_faults (b : Block) (p e : Nat) : (b.setEntry p e).faults = b.faults := rfl
@[simp] theorem Block.setEntry_count (b : Block) (p e q : Nat) :
    (b.setEntry p e).count q = b.count q := rfl

@[simp] theorem Block.setCount_cfg (b : Block) (p n : Nat) : (b.setCount p n).cfg = b.cfg := rfl
@[simp] theorem Block.setCount_pt (b : Block) (p n : Nat) : (b.setCount p n).pt = b.pt := rfl
@[simp] theorem Block.setCount_cnt (b : Block) (p n : Nat) : (b.setCount p n).cnt = b.cnt.set p n := rfl
@[simp] theorem Block.setCount_fs (b : Block) (p n : Nat) : (b.setCount p n).fs = b.fs := rfl
@[simp] theorem Block.setCount_faults (b : Block) (p n : Nat) : (b.setCount p n).faults = b.faults := rfl
@[simp] theorem Block.setCount_entry (b : Block) (p n q : Nat) :
    (b.setCount p n).entry q = b.entry q := rfl

@[simp] theorem Block.addFrame_cfg (b : Block) (f : Nat) : (b.addFrame f).cfg = b.cfg := rfl
@[simp] theorem Block.addFrame_pt (b : Block) (f : Nat) : (b.addFrame f).pt = b.pt := rfl
@[simp] theorem Block.addFrame_cnt (b : Block) (f : Nat) : (b.addFrame f).cnt = b.cnt := rfl
@[simp] theorem Block.addFrame_fs (b : Block) (f : Nat) : (b.addFrame f).fs = b.fs.insert f := rfl
@[simp] theorem Block.addFrame_faults (b : Block) (f : Nat) : (b.addFrame f).faults = b.faults := rfl
@[simp] theorem Block.addFrame_entry (b : Block) (f q : Nat) : (b.addFrame f).entry q = b.entry q := rfl
@[simp] theorem Block.addFrame_count (b : Block) (f q : Nat) : (b.addFrame f).count q = b.count q := rfl

@[simp] theorem Block.countFault_cfg (b : Block) (pr : Config.Params) :
    (b.countFault pr).cfg = b.cfg := rfl
@[simp] theorem Block.countFault_pt (b : Block) (pr : Config.Params) : (b.countFault pr).pt = b.pt := rfl
@[simp] theorem Block.countFault_cnt (b : Block) (pr : Config.Params) :
    (b.countFault pr).cnt = b.cnt := rfl
@[simp] theorem Block.countFault_fs (b : Block) (pr : Config.Params) : (b.countFault pr).fs = b.fs := rfl
@[simp] theorem Block.countFault_faults (b : Block) (pr : Config.Params) :
    (b.countFault pr).faults = incW pr.faultBits b.faults := rfl
@[simp] theorem Block.countFault_entry (b : Block) (pr : Config.Params) (q : Nat) :
    (b.countFault pr).entry q = b.entry q := rfl
@[simp] theorem Block.countFault_count (b : Block) (pr : Config.Params) (q : Nat) :
    (b.countFault pr).count q = b.count q := rfl

@[simp] theorem Block.freshBlock_cfg (c : Cfg) (u : Nat) (t : List Nat) : (freshBlock c u t).cfg = c := rfl
@[simp] theorem Block.freshBlock_pt (c : Cfg) (u : Nat) (t : List Nat) : (freshBlock c u t).pt = t := rfl
@[simp] theorem Block.freshBlock_cnt (c : Cfg) (u : Nat) (t : List Nat) :
    (freshBlock c u t).cnt = initialCounts c u t := rfl
@[simp] theorem Block.freshBlock_fs (c : Cfg) (u : Nat) (t : List Nat) :
    (freshBlock c u t).fs = initialFrames c t := rfl
@[simp] theorem Block.freshBlock_faults (c : Cfg) (u : Nat) (t : List Nat) :
    (freshBlock c u t).faults = 0 := rfl

/-! What the responses of Machine/Operands.lean and Machine/Flags.lean hold in `status`, `warn` and
`info`. -/

@[simp] theorem Response.ofNat_status (n : Nat) : (Response.ofNat n).status = .ok := rfl
@[simp] theorem Response.ofNat_warn (n : Nat) : (Response.ofNat n).warn = false := rfl
@[simp] theorem Response.ofNat_info (n : Nat) : (Response.ofNat n).info = Info.idle := rfl
@[simp] theorem Response.ofPair_status (m n : Nat) : (Response.ofPair m n).status = .ok := rfl
@[simp] theorem Response.ofPair_warn (m n : Nat) : (Response.ofPair m n).warn = false := rfl
@[simp] theorem Response.ofPair_info (m n : Nat) : (Response.ofPair m n).info = Info.idle := rfl
@[simp] theorem Response.ofList_status (l : Listing) : (Response.ofList l).status = .ok := rfl
@[simp] theorem Response.ofList_warn (l : Listing) : (Response.ofList l).warn = false := rfl
@[simp] theorem Response.ofList_info (l : Listing) : (Response.ofList l).info = Info.idle := rfl
@[simp] theorem Response.ofOption_status (o : Option Nat) : (Response.ofOption o).status = .ok := by
  cases o <;> rfl
@[simp] theorem Response.ofOption_warn (o : Option Nat) : (Response.ofOption o).warn = false := by
  cases o <;> rfl
@[simp] theorem Response.ofOption_info (o : Option Nat) : (Response.ofOption o).info = Info.idle := by
  cases o <;> rfl
@[simp] theorem Response.ofWarning_status (w : Option Info) : (Response.ofWarning w).status = .ok := by
  cases w <;> rfl
@[simp] theorem Response.ofWarning_warn (w : Option Info) : (Response.ofWarning w).warn = w.isSome := by
  cases w <;> rfl
@[simp] theorem Response.ofWarning_info (w : Option Info) :
    (Response.ofWarning w).info = w.getD Info.idle := by
  cases w <;> rfl

end Sys2Proof.Machine
end

