-- ==== Sys2Proof/Laws/Ops.lean ====
section
/-!
SUPPORT. One lemma for each shared operation of Machine/Ops.lean and Machine/Constants.lean, saying
once everything it can do.
-/

namespace Sys2Proof.Machine

/-! ### Running an operation -/

@[simp] theorem State.whenConfigured_none {s : State} {k : Block → Result} (h : s.block = none) :
    s.whenConfigured k = .next (s.raise .notConfigured) := by
  simp [State.whenConfigured, h]

@[simp] theorem State.whenConfigured_some {s : State} {k : Block → Result} {b : Block}
    (h : s.block = some b) : s.whenConfigured k = k b := by
  simp [State.whenConfigured, h]

theorem State.probe_none {s : State} {k : Block → Except OpError Response} (h : s.block = none) :
    s.probe k = .next (s.raise .notConfigured) := by
  simp [State.probe, h]

theorem State.probe_ok {s : State} {k : Block → Except OpError Response} {b : Block} {r : Response}
    (h : s.block = some b) (hk : k b = .ok r) : s.probe k = .next (s.respond r) := by
  simp [State.probe, h, hk]

theorem State.probe_error {s : State} {k : Block → Except OpError Response} {b : Block}
    {e : OpError} (h : s.block = some b) (hk : k b = .error e) :
    s.probe k = .next (s.raise e) := by
  simp [State.probe, h, hk]

/-- A probe always completes, with one response, and changes nothing else. -/
theorem State.probe_next (s : State) (k : Block → Except OpError Response) :
    ∃ r, s.probe k = .next (s.respond r) := by
  cases hb : s.block with
  | none => exact ⟨_, State.probe_none hb⟩
  | some b =>
    cases hk : k b with
    | ok r => exact ⟨r, State.probe_ok hb hk⟩
    | error e => exact ⟨_, State.probe_error hb hk⟩

@[simp] theorem State.internal_host {s : State} {op : OpCode} {k : Result} (h : s.issuer = .host) :
    s.internal op k = .next (s.raise (.illegalOp op)) := by
  simp [State.internal, h]

@[simp] theorem State.internal_block {s : State} {op : OpCode} {k : Result}
    (h : s.issuer = .block) : s.internal op k = k := by
  simp [State.internal, h]

/-! ### The arrays -/

theorem Block.entry_setEntry_self {b : Block} {p : Nat} (e : Nat) (h : p < b.pt.length) :
    (b.setEntry p e).entry p = e := by
  simp [Block.entry, Block.setEntry, h]

theorem Block.entry_setEntry_ne {p q : Nat} (b : Block) (e : Nat) (h : p ≠ q) :
    (b.setEntry p e).entry q = b.entry q := by
  simp [Block.entry, Block.setEntry, List.getD_eq_getElem?_getD, h]

theorem Block.count_setCount_self {b : Block} {p : Nat} (n : Nat) (h : p < b.cnt.length) :
    (b.setCount p n).count p = n := by
  simp [Block.count, Block.setCount, h]

theorem Block.count_setCount_ne {p q : Nat} (b : Block) (n : Nat) (h : p ≠ q) :
    (b.setCount p n).count q = b.count q := by
  simp [Block.count, Block.setCount, List.getD_eq_getElem?_getD, h]

/-! ### The FrameSet -/

@[simp] theorem FrameSet.mem_empty (f : Nat) : FrameSet.empty.mem f = false := by
  simp [FrameSet.mem, FrameSet.empty]

@[simp] theorem FrameSet.mem_insert (fs : FrameSet) (f g : Nat) :
    (fs.insert f).mem g = (fs.mem g || decide (f = g)) := by
  simp [FrameSet.mem, FrameSet.insert, Nat.testBit_two_pow]

/-- Two sets with the same members are the same data. -/
theorem FrameSet.ext_mem {a b : FrameSet} (h : ∀ f, a.mem f = b.mem f) : a = b := by
  cases a; cases b
  simp only [FrameSet.mk.injEq]
  exact Nat.eq_of_testBit_eq h

theorem FrameSet.insert_of_mem {fs : FrameSet} {f : Nat} (h : fs.mem f = true) :
    fs.insert f = fs := by
  refine FrameSet.ext_mem fun g => ?_
  rw [FrameSet.mem_insert]
  by_cases hfg : f = g
  · subst hfg; simp [h]
  · simp [hfg]

theorem FrameSet.insert_lt {fs : FrameSet} {f n : Nat} (h : fs.bits < 2 ^ n) (hf : f < n) :
    (fs.insert f).bits < 2 ^ n :=
  Nat.or_lt_two_pow h (Nat.pow_lt_pow_right (by omega) hf)

/-- A set of frames below `n` has no other member. -/
theorem FrameSet.mem_lt {fs : FrameSet} {f n : Nat} (h : fs.bits < 2 ^ n) (hf : fs.mem f = true) :
    f < n := by
  refine Classical.byContradiction fun hn => ?_
  have hle : 2 ^ n ≤ 2 ^ f := Nat.pow_le_pow_right (by omega) (by omega)
  have hz : fs.bits.testBit f = false := Nat.testBit_lt_two_pow (by omega)
  exact absurd hf (by simp [FrameSet.mem, hz])

/-! ### Constants -/

theorem isPow2_iff (n : Nat) : isPow2 n = true ↔ ∃ k, n = 2 ^ k := by
  simp only [isPow2, decide_eq_true_eq]
  constructor
  · exact fun h => ⟨_, h⟩
  · rintro ⟨k, rfl⟩
    simp [Nat.log2_two_pow]

theorem lowMask_and (n w : Nat) : n &&& lowMask w = n % 2 ^ w := by
  simp [lowMask, Nat.and_two_pow_sub_one_eq_mod]

/-- `inc_w` never leaves the width. -/
theorem fits_incW (w : Option Nat) (n : Nat) : Config.fits w (incW w n) = true := by
  cases w with
  | none => rfl
  | some w =>
    have := Nat.two_pow_pos w
    simp [Config.fits, incW]

/-- `inc_w` never lowers a counter that fits. -/
theorem le_incW {w : Option Nat} {n : Nat} (h : Config.fits w n = true) : n ≤ incW w n := by
  cases w with
  | none => simp [incW]
  | some w =>
    simp only [Config.fits, decide_eq_true_eq] at h
    simp only [incW]
    omega

/-- What a legal configuration is, in arithmetic: `S` and `frame_count` are the powers of two whose
exponents are `offset_bits` and `frame_bits`, and the sizes are whole numbers of pages. -/
theorem Cfg.Valid.arith {c : Cfg} (h : c.Valid) :
    c.s = 2 ^ c.offsetBits ∧ c.frameCount = 2 ^ c.frameBits ∧ c.pageCount = 2 ^ c.vpnBits ∧
      c.pageCount * c.s = c.v ∧ c.frameCount * c.s = c.p := by
  obtain ⟨hv, hp, hs, dv, dp⟩ := h
  obtain ⟨i, hi⟩ := (isPow2_iff _).1 hv
  obtain ⟨j, hj⟩ := (isPow2_iff _).1 hp
  obtain ⟨k, hk⟩ := (isPow2_iff _).1 hs
  have quot : ∀ m n, (2 : Nat) ^ m % 2 ^ n = 0 → ∃ d, 2 ^ m / 2 ^ n = 2 ^ d := by
    intro m n hmn
    have hle : n ≤ m := (Nat.pow_dvd_pow_iff_le_right (by omega)).1 (Nat.dvd_of_mod_eq_zero hmn)
    exact ⟨m - n, Nat.pow_div hle (by omega)⟩
  obtain ⟨dV, hdV⟩ := quot i k (by rw [← hi, ← hk]; exact dv)
  obtain ⟨dP, hdP⟩ := quot j k (by rw [← hj, ← hk]; exact dp)
  have hpc : c.pageCount = 2 ^ dV := by rw [Cfg.pageCount, hi, hk, hdV]
  have hfc : c.frameCount = 2 ^ dP := by rw [Cfg.frameCount, hj, hk, hdP]
  refine ⟨?_, ?_, ?_, Nat.div_mul_cancel (Nat.dvd_of_mod_eq_zero dv),
    Nat.div_mul_cancel (Nat.dvd_of_mod_eq_zero dp)⟩
  · rw [Cfg.offsetBits, hk, Nat.log2_two_pow]
  · rw [Cfg.frameBits, hfc]
    cases dP with
    | zero => simp
    | succ d =>
      have : ¬ 2 ^ (d + 1) ≤ 1 := by have := Nat.two_pow_pos d; rw [Nat.pow_succ]; omega
      rw [if_neg this, Nat.log2_two_pow]
  · rw [Cfg.vpnBits, hpc, Nat.log2_two_pow]

end Sys2Proof.Machine
end

