-- ==== Sys2Proof/Laws/Codec.lean ====
section
/-!
SUPPORT. What packing and unpacking a frame field of a given width do, in arithmetic.
-/

namespace Sys2Proof.Machine

theorem frameField_eq_mod (fb e : Nat) : frameField fb e = e % 2 ^ fb := lowMask_and e fb

theorem frameField_lt (fb e : Nat) : frameField fb e < 2 ^ fb := by
  rw [frameField_eq_mod]; exact Nat.mod_lt _ (Nat.two_pow_pos fb)

theorem presentBit_eq_testBit (fb e : Nat) : presentBit fb e = e.testBit fb := by
  rw [presentBit, Nat.and_two_pow]
  cases e.testBit fb <;> simp

theorem presentBit_zero (fb : Nat) : presentBit fb 0 = false := by
  simp [presentBit_eq_testBit]

/-- The packed entry is the kept low bits of the frame plus the present mask. -/
theorem packBits_eq_add (fb frame : Nat) (present : Bool) :
    packBits fb frame present = frame % 2 ^ fb + (if present then 2 ^ fb else 0) := by
  have hlt : frame % 2 ^ fb < 2 ^ fb := Nat.mod_lt _ (Nat.two_pow_pos fb)
  rw [packBits, lowMask_and]
  cases present with
  | false => simp
  | true =>
    have h := Nat.two_pow_add_eq_or_of_lt hlt 1
    simp only [Nat.mul_one] at h
    simp only [if_true]
    rw [Nat.or_comm, ← h, Nat.add_comm]

/-- The packed entry fits below the reserved bits (40_codec.md R110, result range). -/
theorem packBits_lt (fb frame : Nat) (present : Bool) :
    packBits fb frame present < 2 ^ (fb + 1) := by
  have hlt : frame % 2 ^ fb < 2 ^ fb := Nat.mod_lt _ (Nat.two_pow_pos fb)
  rw [packBits_eq_add, Nat.pow_succ]
  cases present <;> simp <;> omega

theorem frameField_packBits (fb frame : Nat) (present : Bool) :
    frameField fb (packBits fb frame present) = frame % 2 ^ fb := by
  rw [frameField_eq_mod, packBits_eq_add]
  cases present <;> simp

theorem presentBit_packBits (fb frame : Nat) (present : Bool) :
    presentBit fb (packBits fb frame present) = present := by
  have hlt : frame % 2 ^ fb < 2 ^ fb := Nat.mod_lt _ (Nat.two_pow_pos fb)
  rw [presentBit_eq_testBit, packBits_eq_add]
  cases present with
  | false => simp [Nat.testBit_lt_two_pow hlt]
  | true => simp [Nat.add_comm, Nat.testBit_two_pow_add_eq, Nat.testBit_lt_two_pow hlt]

end Sys2Proof.Machine
end

