-- ==== Sys2Proof/Laws/Decode.lean ====
section
/-!
SUPPORT. The canonical form of a map operand: what one insertion does, that the decoder's result has
the form, and that a map already in the form is its own canonical form.
-/

namespace Sys2Proof

theorem PageMap.mem_put_key {p e : Nat} {m : PageMap} {x : Nat × Nat}
    (h : x ∈ PageMap.put p e m) : x = (p, e) ∨ x ∈ m := by
  induction m with
  | nil => simpa [PageMap.put] using h
  | cons qd m ih =>
    obtain ⟨q, d⟩ := qd
    simp only [PageMap.put] at h
    split at h
    · simpa using h
    · split at h
      · rcases List.mem_cons.1 h with h | h
        · exact Or.inl h
        · exact Or.inr (List.mem_cons_of_mem _ h)
      · rcases List.mem_cons.1 h with h | h
        · exact Or.inr (by simp [h])
        · rcases ih h with h | h
          · exact Or.inl h
          · exact Or.inr (List.mem_cons_of_mem _ h)

/-- Putting a pair keeps the canonical form. -/
theorem PageMap.put_ascending {m : PageMap} (hm : m.Ascending) (p e : Nat) :
    (PageMap.put p e m).Ascending := by
  induction m with
  | nil => simp [PageMap.put, PageMap.Ascending]
  | cons qd m ih =>
    obtain ⟨q, d⟩ := qd
    obtain ⟨hhead, htail⟩ := List.pairwise_cons.1 hm
    simp only [PageMap.put]
    split
    · next hpq =>
      refine List.pairwise_cons.2 ⟨fun x hx => ?_, hm⟩
      rcases List.mem_cons.1 hx with rfl | hx
      · exact hpq
      · exact Nat.lt_trans hpq (hhead x hx)
    · next hpq =>
      split
      · next heq =>
        subst heq
        exact List.pairwise_cons.2 ⟨hhead, htail⟩
      · next hne =>
        refine List.pairwise_cons.2 ⟨fun x hx => ?_, ih htail⟩
        rcases PageMap.mem_put_key hx with rfl | hx
        · show q < p
          omega
        · exact hhead x hx

/-- The decoder's maps are in canonical form. -/
theorem PageMap.canon_ascending (m : PageMap) : (PageMap.canon m).Ascending := by
  suffices h : ∀ acc : PageMap, acc.Ascending →
      (m.foldl (fun acc pe => PageMap.put pe.1 pe.2 acc) acc).Ascending from
    h [] List.Pairwise.nil
  induction m with
  | nil => exact fun acc h => h
  | cons pe m ih => exact fun acc h => ih _ (PageMap.put_ascending h pe.1 pe.2)

/-- A pair above every key of the map goes to its end. -/
theorem PageMap.put_of_above {m : PageMap} {p e : Nat} (h : ∀ x ∈ m, x.1 < p) :
    PageMap.put p e m = m ++ [(p, e)] := by
  induction m with
  | nil => rfl
  | cons qd m ih =>
    obtain ⟨hq, hm⟩ := List.forall_mem_cons.1 h
    have h1 : ¬ p < qd.1 := by omega
    have h2 : ¬ p = qd.1 := by omega
    simp [PageMap.put, h1, h2, ih hm]

/-- A map in canonical form is its own canonical form. -/
theorem PageMap.canon_of_ascending {m : PageMap} (hm : m.Ascending) : PageMap.canon m = m := by
  suffices h : ∀ (m acc : PageMap), (acc ++ m).Ascending →
      m.foldl (fun acc pe => PageMap.put pe.1 pe.2 acc) acc = acc ++ m from by
    simpa [PageMap.canon] using h m [] (by simpa using hm)
  intro m
  induction m with
  | nil => simp
  | cons pe m ih =>
    intro acc h
    have habove : ∀ x ∈ acc, x.1 < pe.1 := fun x hx =>
      (List.pairwise_append.1 h).2.2 x hx pe (by simp)
    rw [List.foldl_cons, PageMap.put_of_above habove, ih _ (by simpa using h)]
    simp

end Sys2Proof
end

