-- ==== Sys2Proof/Laws/Lfu.lean ====
section
/-!
SUPPORT. What the allocator's scan and the replacement policy's scan answer, and what an eviction
does to each page.
-/

namespace Sys2Proof.Machine

/-! ### FINDFREE -/

/-- FINDFREE finds `f` exactly when `f` is the lowest-numbered free frame. -/
theorem Block.findFree_eq_some_iff {b : Block} {f : Nat} :
    b.findFree = some f ↔
      f < b.cfg.frameCount ∧ b.fs.mem f = false ∧ ∀ g, g < f → b.fs.mem g = true := by
  rw [Block.findFree, List.find?_range_eq_some]
  simp [and_left_comm]

/-- FINDFREE finds nothing exactly when every frame is in the set. -/
theorem Block.findFree_eq_none_iff {b : Block} :
    b.findFree = none ↔ ∀ f, f < b.cfg.frameCount → b.fs.mem f = true := by
  simp [Block.findFree]

/-! ### SELVICT -/

/-- What SELVICT's loop has found after the pages below `n`: the least present page below `n` in the
order of 43_lfu.md R136, or nothing when none is present. -/
theorem Block.foldl_better (b : Block) (n : Nat) :
    (∀ p, (List.range n).foldl b.better none = some p →
      p < n ∧ b.isPresent p = true ∧
        ∀ q, q < n → b.isPresent q = true → q ≠ p → b.before p q) ∧
    ((List.range n).foldl b.better none = none → ∀ q, q < n → b.isPresent q = false) := by
  induction n with
  | zero => simp
  | succ n ih =>
    obtain ⟨ihs, ihn⟩ := ih
    rw [List.range_succ, List.foldl_append]
    simp only [List.foldl_cons, List.foldl_nil]
    cases hacc : (List.range n).foldl b.better none with
    | none =>
      have hnone := ihn hacc
      by_cases hn : b.isPresent n = true
      · rw [Block.better, if_pos hn]
        refine ⟨fun p hp => ?_, fun h => by simp at h⟩
        obtain rfl : n = p := by simpa using hp
        refine ⟨by omega, hn, fun q hq hqp hne => ?_⟩
        have := hnone q (by omega)
        simp [this] at hqp
      · rw [Block.better, if_neg hn]
        refine ⟨fun p hp => by simp at hp, fun _ q hq => ?_⟩
        rcases Nat.lt_succ_iff_lt_or_eq.1 hq with h | rfl
        · exact hnone q h
        · simpa using hn
    | some m =>
      obtain ⟨hm, hmp, hmin⟩ := ihs m hacc
      by_cases hn : b.isPresent n = true
      · rw [Block.better, if_pos hn]
        by_cases hlt : b.count n < b.count m
        · simp only [if_pos hlt]
          refine ⟨fun p hp => ?_, fun h => by simp at h⟩
          obtain rfl : n = p := by simpa using hp
          refine ⟨by omega, hn, fun q hq hqp hne => ?_⟩
          by_cases hqm : q = m
          · subst hqm; exact Or.inl hlt
          · rcases hmin q (by omega) hqp hqm with h | h
            · exact Or.inl (by omega)
            · exact Or.inl (by omega)
        · simp only [if_neg hlt]
          refine ⟨fun p hp => ?_, fun h => by simp at h⟩
          obtain rfl : m = p := by simpa using hp
          refine ⟨by omega, hmp, fun q hq hqp hne => ?_⟩
          rcases Nat.lt_succ_iff_lt_or_eq.1 hq with h | rfl
          · exact hmin q h hqp hne
          · show b.count m < b.count q ∨ (b.count m = b.count q ∧ m < q)
            omega
      · rw [Block.better, if_neg hn]
        refine ⟨fun p hp => ?_, fun h => by simp at h⟩
        obtain rfl : m = p := by simpa using hp
        refine ⟨by omega, hmp, fun q hq hqp hne => ?_⟩
        rcases Nat.lt_succ_iff_lt_or_eq.1 hq with h | rfl
        · exact hmin q h hqp hne
        · exact absurd hqp hn

/-- The page SELVICT answers is the least present page in the order of 43_lfu.md R136. -/
theorem Block.selVict_spec {b : Block} {p : Nat} (h : b.selVict = some p) :
    p < b.cfg.pageCount ∧ b.isPresent p = true ∧
      ∀ q, q < b.cfg.pageCount → b.isPresent q = true → q ≠ p → b.before p q :=
  (b.foldl_better b.cfg.pageCount).1 p h

/-- SELVICT answers nothing exactly when no page is present. -/
theorem Block.selVict_eq_none_iff {b : Block} :
    b.selVict = none ↔ ∀ q, q < b.cfg.pageCount → b.isPresent q = false := by
  constructor
  · exact (b.foldl_better b.cfg.pageCount).2
  · intro h
    cases hs : b.selVict with
    | none => rfl
    | some p =>
      obtain ⟨hp, hpp, -⟩ := Block.selVict_spec hs
      simp [h p hp] at hpp

/-! ### EVICT -/

@[simp] theorem Block.evict_cfg (b : Block) (v i : Nat) : (b.evict v i).cfg = b.cfg := rfl
@[simp] theorem Block.evict_fs (b : Block) (v i : Nat) : (b.evict v i).fs = b.fs := rfl
@[simp] theorem Block.evict_faults (b : Block) (v i : Nat) : (b.evict v i).faults = b.faults := rfl
@[simp] theorem Block.evict_pt_length (b : Block) (v i : Nat) :
    (b.evict v i).pt.length = b.pt.length := by simp [Block.evict]
@[simp] theorem Block.evict_cnt_length (b : Block) (v i : Nat) :
    (b.evict v i).cnt.length = b.cnt.length := by simp [Block.evict]

/-- The entry of every page after an eviction. -/
theorem Block.entry_evict {b : Block} {v i : Nat} (hv : v < b.pt.length) (hi : i < b.pt.length)
    (q : Nat) :
    (b.evict v i).entry q =
      if q = i then b.cfg.pack (b.frameOf v) true else if q = v then 0 else b.entry q := by
  simp only [Block.evict, Block.setCount_entry]
  by_cases hqi : q = i
  · subst hqi
    rw [if_pos rfl, Block.entry_setEntry_self _ (by simpa using hi)]
  · rw [if_neg hqi, Block.entry_setEntry_ne _ _ (Ne.symm hqi), Block.setCount_entry]
    by_cases hqv : q = v
    · subst hqv
      rw [if_pos rfl, Block.entry_setEntry_self _ hv]
    · rw [if_neg hqv, Block.entry_setEntry_ne _ _ (Ne.symm hqv)]

/-- The count of every page after an eviction. -/
theorem Block.count_evict {b : Block} {v i : Nat} (hv : v < b.cnt.length) (hi : i < b.cnt.length)
    (q : Nat) :
    (b.evict v i).count q = if q = i then 1 else if q = v then 0 else b.count q := by
  simp only [Block.evict]
  by_cases hqi : q = i
  · subst hqi
    rw [if_pos rfl, Block.count_setCount_self _ (by simpa using hi)]
  · rw [if_neg hqi, Block.count_setCount_ne _ _ (Ne.symm hqi), Block.setEntry_count]
    by_cases hqv : q = v
    · subst hqv
      rw [if_pos rfl, Block.count_setCount_self _ (by simpa using hv)]
    · rw [if_neg hqv, Block.count_setCount_ne _ _ (Ne.symm hqv), Block.setEntry_count]

end Sys2Proof.Machine
end

