-- ==== Sys2Proof/Laws/PageTable.lean ====
section
/-!
SUPPORT. What PTBUILD checks and builds.
-/

namespace Sys2Proof.Machine

/-- PTBUILD's checks pass exactly when every initial entry is in range and in width. -/
theorem entryViolation_eq_none_iff {pc eb : Nat} {m : PageMap} :
    entryViolation pc eb m = none ↔ ∀ pe ∈ m, pe.1 < pc ∧ pe.2 < 2 ^ eb := by
  induction m with
  | nil => simp [entryViolation]
  | cons pe m ih =>
    obtain ⟨p, e⟩ := pe
    simp only [entryViolation, List.forall_mem_cons]
    by_cases hp : pc ≤ p
    · simp [hp]
    · by_cases he : 2 ^ eb ≤ e
      · simp [hp, he]
      · simp [hp, he, ih, Nat.lt_of_not_le hp, Nat.lt_of_not_le he]

/-- Every violation PTBUILD reports is a ConfigError. -/
theorem entryViolation_status {pc eb : Nat} {m : PageMap} {e : OpError}
    (h : entryViolation pc eb m = some e) : e.status = .configError := by
  induction m with
  | nil => simp [entryViolation] at h
  | cons pe m ih =>
    obtain ⟨p, v⟩ := pe
    simp only [entryViolation] at h
    split at h
    · cases h; rfl
    · split at h
      · cases h; rfl
      · exact ih h

theorem foldl_set_length (m : PageMap) (t : List Nat) :
    (m.foldl (fun t pe => t.set pe.1 pe.2) t).length = t.length := by
  induction m generalizing t with
  | nil => rfl
  | cons pe m ih => simp [ih]

@[simp] theorem overlay_length (pc : Nat) (m : PageMap) : (overlay pc m).length = pc := by
  simp [overlay, foldl_set_length]

theorem foldl_set_getD_of_not_mem {m : PageMap} {q : Nat} (h : ∀ pe ∈ m, pe.1 ≠ q)
    (t : List Nat) : (m.foldl (fun t pe => t.set pe.1 pe.2) t).getD q 0 = t.getD q 0 := by
  induction m generalizing t with
  | nil => rfl
  | cons pe m ih =>
    obtain ⟨hq, hm⟩ := List.forall_mem_cons.1 h
    rw [List.foldl_cons, ih hm]
    simp [List.getD_eq_getElem?_getD, hq]

/-- A page the map leaves out is absent: its slot is 0. -/
theorem overlay_getD_of_not_mem {pc q : Nat} {m : PageMap} (h : ∀ pe ∈ m, pe.1 ≠ q) :
    (overlay pc m).getD q 0 = 0 := by
  rw [overlay, foldl_set_getD_of_not_mem h]
  simp only [List.getD_eq_getElem?_getD, List.getElem?_replicate]
  split <;> rfl

theorem foldl_set_getD_of_mem {m : PageMap} (hm : m.Ascending) {q e : Nat} (hqe : (q, e) ∈ m)
    {t : List Nat} (hq : q < t.length) :
    (m.foldl (fun t pe => t.set pe.1 pe.2) t).getD q 0 = e := by
  induction m generalizing t with
  | nil => simp at hqe
  | cons pe m ih =>
    obtain ⟨hhead, htail⟩ := List.pairwise_cons.1 hm
    rcases List.mem_cons.1 hqe with rfl | hmem
    · simp only [List.foldl_cons]
      rw [foldl_set_getD_of_not_mem fun pe' h' => Nat.ne_of_gt (hhead pe' h')]
      simp [hq]
    · exact ih htail hmem (by simpa using hq)

/-- A page the map names has the map's entry. -/
theorem overlay_getD_of_mem {pc q e : Nat} {m : PageMap} (hm : m.Ascending) (hqe : (q, e) ∈ m)
    (hq : q < pc) : (overlay pc m).getD q 0 = e :=
  foldl_set_getD_of_mem hm hqe (by simpa using hq)

/-- The warning's payload names a frame that two pages claim. -/
theorem claimPayload_eq_some {fb : Nat} {t : List Nat} {f : Nat} {i : Info}
    (h : claimPayload fb t f = some i) :
    ∃ p1 p2 rest, claimants fb t f = p1 :: p2 :: rest ∧ i = { page := p1, value := p2, bound := f } := by
  unfold claimPayload at h
  split at h
  · next p1 p2 rest hc => exact ⟨p1, p2, rest, hc, (Option.some.inj h).symm⟩
  · simp at h

theorem mem_claimants {fb : Nat} {t : List Nat} {f p : Nat} :
    p ∈ claimants fb t f ↔
      p < t.length ∧ presentBit fb (t.getD p 0) = true ∧ frameField fb (t.getD p 0) = f := by
  simp [claimants, tablePages, claims]

/-- The claimants of a frame stand in increasing order. -/
theorem claimants_sorted (fb : Nat) (t : List Nat) (f : Nat) :
    (claimants fb t f).Pairwise (· < ·) :=
  List.Pairwise.filter _ List.pairwise_lt_range

/-- The frames of the present entries of a table, and no others, are in the initial FrameSet. -/
theorem mem_initialFrames (c : Cfg) (t : List Nat) (f : Nat) :
    (initialFrames c t).mem f = true ↔ ∃ e ∈ t, c.present e = true ∧ c.frame e = f := by
  suffices h : ∀ fs : FrameSet,
      (t.foldl (fun fs e => if c.present e then fs.insert (c.frame e) else fs) fs).mem f = true ↔
        fs.mem f = true ∨ ∃ e ∈ t, c.present e = true ∧ c.frame e = f by
    simpa [initialFrames] using h FrameSet.empty
  induction t with
  | nil => simp
  | cons e t ih =>
    intro fs
    simp only [List.foldl_cons, ih, List.exists_mem_cons_iff]
    by_cases he : c.present e = true
    · simp [he, or_assoc]
    · simp [he]

end Sys2Proof.Machine
end

