-- ==== Sys2Proof/Laws/PerInstr.lean ====
section
/-!
SUPPORT. A statement about every operation as syntax, one lemma for each constructor of `Instr`.
-/

namespace Sys2Proof.Laws.AssignedCode

/-- The code of an operation is assigned: no command that carries it, whatever its operands, is
decoded as an unassigned one; and it lies in the internal range exactly when the operation is of
class I (30_encoding.md R90, R93, R94). -/
def Statement (i : Instr) : Prop :=
  (i.opClass = .internal ↔ 0x10 ≤ i.opcode.toNat ∧ i.opcode.toNat ≤ 0x12) ∧
    ∀ (c : Command) (op : OpCode), c.op = i.opcode → decode c ≠ .error (.unassigned op)

theorem construct (v p sz : Nat) (init : PageMap) : Statement (.construct v p sz init) := by
  refine ⟨by simp [Instr.opClass, Instr.opcode], fun c op h hd => ?_⟩
  simp [decode, h, Instr.opcode] at hd

theorem translate (va : Nat) : Statement (.translate va) := by
  refine ⟨by simp [Instr.opClass, Instr.opcode], fun c op h hd => ?_⟩
  simp [decode, h, Instr.opcode] at hd

theorem pack (frame : Nat) (present : Bool) : Statement (.pack frame present) := by
  refine ⟨by simp [Instr.opClass, Instr.opcode], fun c op h hd => ?_⟩
  simp only [decode, h, Instr.opcode, BitVec.toNat_ofNat] at hd
  unfold decodePack at hd
  split at hd <;> cases hd

theorem unpack (entry : Nat) : Statement (.unpack entry) := by
  refine ⟨by simp [Instr.opClass, Instr.opcode], fun c op h hd => ?_⟩
  simp [decode, h, Instr.opcode] at hd

theorem fmtbin (value width : Nat) : Statement (.fmtbin value width) := by
  refine ⟨by simp [Instr.opClass, Instr.opcode], fun c op h hd => ?_⟩
  simp [decode, h, Instr.opcode] at hd

theorem split (va : Nat) : Statement (.split va) := by
  refine ⟨by simp [Instr.opClass, Instr.opcode], fun c op h hd => ?_⟩
  simp [decode, h, Instr.opcode] at hd

theorem compose (frame offset : Nat) : Statement (.compose frame offset) := by
  refine ⟨by simp [Instr.opClass, Instr.opcode], fun c op h hd => ?_⟩
  simp [decode, h, Instr.opcode] at hd

theorem ptget (page : Nat) : Statement (.ptget page) := by
  refine ⟨by simp [Instr.opClass, Instr.opcode], fun c op h hd => ?_⟩
  simp [decode, h, Instr.opcode] at hd

theorem findfree : Statement .findfree := by
  refine ⟨by simp [Instr.opClass, Instr.opcode], fun c op h hd => ?_⟩
  simp [decode, h, Instr.opcode] at hd

theorem selvict : Statement .selvict := by
  refine ⟨by simp [Instr.opClass, Instr.opcode], fun c op h hd => ?_⟩
  simp [decode, h, Instr.opcode] at hd

theorem rdcnt (page : Nat) : Statement (.rdcnt page) := by
  refine ⟨by simp [Instr.opClass, Instr.opcode], fun c op h hd => ?_⟩
  simp [decode, h, Instr.opcode] at hd

theorem rdfs (frame : Nat) : Statement (.rdfs frame) := by
  refine ⟨by simp [Instr.opClass, Instr.opcode], fun c op h hd => ?_⟩
  simp [decode, h, Instr.opcode] at hd

theorem rdreg (sel : Nat) : Statement (.rdreg sel) := by
  refine ⟨by simp [Instr.opClass, Instr.opcode], fun c op h hd => ?_⟩
  simp [decode, h, Instr.opcode] at hd

theorem snapshot : Statement .snapshot := by
  refine ⟨by simp [Instr.opClass, Instr.opcode], fun c op h hd => ?_⟩
  simp [decode, h, Instr.opcode] at hd

theorem ptbuild (pageCount entryBits : Nat) (init : PageMap) : Statement (.ptbuild pageCount entryBits init) := by
  refine ⟨by simp [Instr.opClass, Instr.opcode], fun c op h hd => ?_⟩
  simp [decode, h, Instr.opcode] at hd

theorem ptset (page entry : Nat) : Statement (.ptset page entry) := by
  refine ⟨by simp [Instr.opClass, Instr.opcode], fun c op h hd => ?_⟩
  simp [decode, h, Instr.opcode] at hd

theorem evict (victim incoming : Nat) : Statement (.evict victim incoming) := by
  refine ⟨by simp [Instr.opClass, Instr.opcode], fun c op h hd => ?_⟩
  simp [decode, h, Instr.opcode] at hd

end Sys2Proof.Laws.AssignedCode
end

