-- ==== Sys2Proof/Laws/Translator.lean ====
section
/-!
SUPPORT. What TRANSLATE can do, said once: the four ways a lookup ends, the effect of each on every
page, and the shape of the step around `exec`.
-/

namespace Sys2Proof.Machine

/-! ### SPLIT -/

theorem Cfg.split_of_lt {c : Cfg} {va : Nat} (h : c.vpn va < c.pageCount) :
    c.split va = .ok (c.vpn va, c.offset va) := by
  simp [Cfg.split, Nat.not_le.2 h]

theorem Cfg.split_of_le {c : Cfg} {va : Nat} (h : c.pageCount ≤ c.vpn va) :
    c.split va = .error (.invalidPage (c.vpn va) va c.pageCount) := by
  simp [Cfg.split, h]

theorem Cfg.offset_eq_mod (c : Cfg) (va : Nat) : c.offset va = va % 2 ^ c.offsetBits := by
  rw [Cfg.offset, Nat.one_shiftLeft, Nat.and_two_pow_sub_one_eq_mod]

theorem Cfg.vpn_eq_div (c : Cfg) (va : Nat) : c.vpn va = va / 2 ^ c.offsetBits := by
  rw [Cfg.vpn, Nat.shiftRight_eq_div_pow]

/-- Within the contract the OR of COMPOSE is an addition (44_translator.md R147 corner case a). -/
theorem Cfg.compose_eq_add (c : Cfg) {frame offset : Nat} (h : offset < 2 ^ c.offsetBits) :
    c.compose frame offset = frame * 2 ^ c.offsetBits + offset := by
  rw [Cfg.compose, Nat.shiftLeft_eq, Nat.mul_comm, Nat.two_pow_add_eq_or_of_lt h]

/-! ### The paths -/

@[simp] theorem Block.hit_cfg (b : Block) (pr : Config.Params) (p : Nat) : (b.hit pr p).cfg = b.cfg := rfl
@[simp] theorem Block.hit_pt (b : Block) (pr : Config.Params) (p : Nat) : (b.hit pr p).pt = b.pt := rfl
@[simp] theorem Block.hit_fs (b : Block) (pr : Config.Params) (p : Nat) : (b.hit pr p).fs = b.fs := rfl
@[simp] theorem Block.hit_faults (b : Block) (pr : Config.Params) (p : Nat) :
    (b.hit pr p).faults = b.faults := rfl
@[simp] theorem Block.hit_entry (b : Block) (pr : Config.Params) (p q : Nat) :
    (b.hit pr p).entry q = b.entry q := rfl

@[simp] theorem Block.loadFree_cfg (b : Block) (p f : Nat) : (b.loadFree p f).cfg = b.cfg := rfl
@[simp] theorem Block.loadFree_fs (b : Block) (p f : Nat) : (b.loadFree p f).fs = b.fs.insert f := rfl
@[simp] theorem Block.loadFree_faults (b : Block) (p f : Nat) : (b.loadFree p f).faults = b.faults := rfl
@[simp] theorem Block.loadFree_pt_length (b : Block) (p f : Nat) :
    (b.loadFree p f).pt.length = b.pt.length := by simp [Block.loadFree, Block.ptSet]
@[simp] theorem Block.loadFree_cnt_length (b : Block) (p f : Nat) :
    (b.loadFree p f).cnt.length = b.cnt.length := by simp [Block.loadFree, Block.ptSet]

/-- The entry of every page after a load into a free frame. -/
theorem Block.entry_loadFree {b : Block} {p : Nat} (hp : p < b.pt.length) (f q : Nat) :
    (b.loadFree p f).entry q = if q = p then b.cfg.pack f true else b.entry q := by
  show (b.setEntry p (b.cfg.pack f true)).entry q = _
  by_cases h : q = p
  · subst h; rw [if_pos rfl, Block.entry_setEntry_self _ hp]
  · rw [if_neg h, Block.entry_setEntry_ne _ _ (Ne.symm h)]

/-- The count of every page after a load into a free frame. -/
theorem Block.count_loadFree {b : Block} {p : Nat} (hp : p < b.cnt.length) (f q : Nat) :
    (b.loadFree p f).count q = if q = p then 1 else b.count q := by
  show (b.setCount p 1).count q = _
  by_cases h : q = p
  · subst h; rw [if_pos rfl, Block.count_setCount_self _ hp]
  · rw [if_neg h, Block.count_setCount_ne _ _ (Ne.symm h)]

/-- The count of every page after a hit. -/
theorem Block.count_hit {b : Block} {pr : Config.Params} {p : Nat} (hp : p < b.cnt.length) (q : Nat) :
    (b.hit pr p).count q = if q = p then incW pr.cntBits (b.count p) else b.count q := by
  show (b.setCount p _).count q = _
  by_cases h : q = p
  · subst h; rw [if_pos rfl, Block.count_setCount_self _ hp]
  · rw [if_neg h, Block.count_setCount_ne _ _ (Ne.symm h)]

/-- The four ways a lookup ends (44_translator.md R150): a hit, a miss into a free frame, a miss by
eviction, and a miss with no victim. -/
theorem Block.lookup_cases (b : Block) (pr : Config.Params) (vpn : Nat) :
    (b.isPresent vpn = true ∧ b.lookup pr vpn = (b.hit pr vpn, .ok (b.frameOf vpn))) ∨
    (b.isPresent vpn = false ∧ ∃ f, b.findFree = some f ∧
      b.lookup pr vpn = ((b.countFault pr).loadFree vpn f, .ok f)) ∨
    (b.isPresent vpn = false ∧ b.findFree = none ∧ ∃ v, b.selVict = some v ∧
      b.lookup pr vpn = ((b.countFault pr).evict v vpn, .ok (b.frameOf v))) ∨
    (b.isPresent vpn = false ∧ b.findFree = none ∧ b.selVict = none ∧
      b.lookup pr vpn = (b.countFault pr, .error .noVictim)) := by
  cases hp : b.isPresent vpn with
  | true => exact Or.inl ⟨rfl, by rw [Block.lookup, if_pos hp]⟩
  | false =>
    have hl : b.lookup pr vpn = (b.countFault pr).assign vpn := by
      rw [Block.lookup, if_neg (by simp [hp])]
    have hff : (b.countFault pr).findFree = b.findFree := rfl
    have hsv : (b.countFault pr).selVict = b.selVict := rfl
    refine Or.inr ?_
    rw [hl]
    unfold Block.assign
    rw [hff, hsv]
    cases hf : b.findFree with
    | some f => exact Or.inl ⟨rfl, f, rfl, rfl⟩
    | none =>
      cases hv : b.selVict with
      | some v => exact Or.inr (Or.inl ⟨rfl, rfl, v, rfl, rfl⟩)
      | none => exact Or.inr (Or.inr ⟨rfl, rfl, rfl, rfl⟩)

/-- What TRANSLATE answers on a configured block: the Split error, or the end of the lookup. -/
theorem execTranslate_cases {s : State} {b : Block} (va : Nat) (hb : s.block = some b) :
    (b.cfg.pageCount ≤ b.cfg.vpn va ∧
      execTranslate va s = .next (s.raise (.invalidPage (b.cfg.vpn va) va b.cfg.pageCount))) ∨
    (b.cfg.vpn va < b.cfg.pageCount ∧ ∃ b' f,
      b.lookup s.params (b.cfg.vpn va) = (b', .ok f) ∧
      execTranslate va s =
        .next ((s.withBlock b').respond (.ofNat (b.cfg.compose f (b.cfg.offset va))))) ∨
    (b.cfg.vpn va < b.cfg.pageCount ∧ ∃ b' e,
      b.lookup s.params (b.cfg.vpn va) = (b', .error e) ∧
      execTranslate va s = .next ((s.withBlock b').raise e)) := by
  rcases Nat.lt_or_ge (b.cfg.vpn va) b.cfg.pageCount with h | h
  · refine Or.inr ?_
    rcases hl : b.lookup s.params (b.cfg.vpn va) with ⟨b', e | f⟩
    · exact Or.inr ⟨h, b', e, rfl, by
        simp [execTranslate, State.whenConfigured, hb, Cfg.split_of_lt h, hl]⟩
    · exact Or.inl ⟨h, b', f, rfl, by
        simp [execTranslate, State.whenConfigured, hb, Cfg.split_of_lt h, hl]⟩
  · exact Or.inl ⟨h, by simp [execTranslate, State.whenConfigured, hb, Cfg.split_of_le h]⟩

end Sys2Proof.Machine
end

