-- ==== Sys2Proof/Laws/Step.lean ====
section
/-!
SUPPORT. What one operation and one step can do, said once: the inversion lemmas that proofs about
every state cite instead of unfolding `exec` and `step`.
-/

namespace Sys2Proof.Machine

theorem exceeds_eq_true_iff {limit : Option Nat} {n : Nat} :
    exceeds limit n = true ↔ ∃ m, limit = some m ∧ m < n := by
  cases limit <;> simp [exceeds]

/-- A CONSTRUCT is above the limits exactly when a finite one is exceeded. -/
theorem aboveLimit_eq_true_iff {pr : Config.Params} {v p : Nat} :
    aboveLimit pr v p = true ↔
      (∃ m, pr.maxV = some m ∧ m < v) ∨ ∃ m, pr.maxP = some m ∧ m < p := by
  simp [aboveLimit, exceeds_eq_true_iff]

/-- What CONSTRUCT does: it ends with a ConfigError and no change, or installs a fresh block around
the table PTBUILD built from entries that pass its checks. -/
theorem execConstruct_cases (v p sz : Nat) (init : PageMap) (s : State) :
    (∃ e : OpError, e.status = .configError ∧
      execConstruct v p sz init s = .next (s.raise e)) ∨
    (sizeViolation v p sz = none ∧ aboveLimit s.params v p = false ∧
      entryViolation (Cfg.mk v p sz).pageCount (Cfg.mk v p sz).entryBits init = none ∧
      execConstruct v p sz init s = .next
        ((s.withBlock (freshBlock (Cfg.mk v p sz) s.params.initUsage
            (overlay (Cfg.mk v p sz).pageCount init))).respond
          (.ofWarning (duplicateClaim (Cfg.mk v p sz).frameBits
            (overlay (Cfg.mk v p sz).pageCount init))))) := by
  unfold execConstruct constructBlock
  cases hs : sizeViolation v p sz with
  | some e =>
    refine Or.inl ⟨e, ?_, rfl⟩
    unfold sizeViolation at hs
    repeat' split at hs
    all_goals first | (cases hs; rfl) | simp at hs
  | none =>
    unfold ptBuild
    cases he : entryViolation (Cfg.mk v p sz).pageCount (Cfg.mk v p sz).entryBits init with
    | some e => exact Or.inl ⟨e, entryViolation_status he, rfl⟩
    | none =>
      cases ha : aboveLimit s.params v p with
      | true => exact Or.inl ⟨sizeLimitError v p, rfl, by simp⟩
      | false => exact Or.inr ⟨rfl, rfl, rfl, by simp [Cfg.entryBits]⟩

/-- The size checks of CONSTRUCT pass exactly for a legal configuration. -/
theorem sizeViolation_eq_none_iff {v p sz : Nat} :
    sizeViolation v p sz = none ↔ (Cfg.mk v p sz).Valid := by
  unfold sizeViolation Cfg.Valid
  cases isPow2 sz <;> cases isPow2 v <;> cases isPow2 p <;> simp
  by_cases h : v % sz = 0 <;> simp [h]

/-- An operation that is neither CONSTRUCT nor TRANSLATE, invoked by the host, only responds, or has
no meaning. -/
theorem exec_only_responds {i : Instr} {s : State} (hs : s.issuer = .host)
    (hi : i.opClass ≠ .entryPoint) :
    (∃ r, exec i s = .next (s.respond r)) ∨
    ∃ value width, i = .fmtbin value width ∧ fmtbinDomain value width = false ∧
      exec i s = .refused (.fmtbinOutsideDomain value width) := by
  cases i with
  | construct v p sz init => exact absurd rfl hi
  | translate va => exact absurd rfl hi
  | fmtbin value width =>
    cases hb : s.block with
    | none => exact Or.inl ⟨_, by simp [exec, execFmtbin, hb, State.raise]; rfl⟩
    | some b =>
      cases hd : fmtbinDomain value width with
      | true => exact Or.inl ⟨_, by simp [exec, execFmtbin, hb, hd]; rfl⟩
      | false => exact Or.inr ⟨value, width, rfl, hd, by simp [exec, execFmtbin, hb, hd]⟩
  | ptbuild pc eb init => exact Or.inl ⟨_, State.internal_host hs⟩
  | ptset page entry => exact Or.inl ⟨_, State.internal_host hs⟩
  | evict victim incoming => exact Or.inl ⟨_, State.internal_host hs⟩
  | pack frame present => exact Or.inl (by unfold exec execPack; exact State.probe_next s _)
  | unpack entry => exact Or.inl (by unfold exec execUnpack; exact State.probe_next s _)
  | split va => exact Or.inl (by unfold exec execSplit; exact State.probe_next s _)
  | compose frame offset => exact Or.inl (by unfold exec execCompose; exact State.probe_next s _)
  | ptget page => exact Or.inl (by unfold exec execPtget; exact State.probe_next s _)
  | findfree => exact Or.inl (by unfold exec execFindfree; exact State.probe_next s _)
  | selvict => exact Or.inl (by unfold exec execSelvict; exact State.probe_next s _)
  | rdcnt page => exact Or.inl (by unfold exec execRdcnt; exact State.probe_next s _)
  | rdfs frame => exact Or.inl (by unfold exec execRdfs; exact State.probe_next s _)
  | rdreg sel => exact Or.inl (by unfold exec execRdreg; exact State.probe_next s _)
  | snapshot => exact Or.inl (by unfold exec execSnapshot; exact State.probe_next s _)

/-- TRANSLATE always completes: while UNCONFIGURED it only responds, on a configured block it leaves
the block or replaces it by the end of a lookup. -/
theorem execTranslate_block (va : Nat) (s : State) :
    ∃ r, execTranslate va s = .next (s.respond r) ∨
      ∃ b, s.block = some b ∧ b.cfg.vpn va < b.cfg.pageCount ∧
        execTranslate va s =
          .next ((s.withBlock (b.lookup s.params (b.cfg.vpn va)).1).respond r) := by
  cases hb : s.block with
  | none =>
    exact ⟨_, Or.inl (by rw [execTranslate, State.whenConfigured_none hb]; rfl)⟩
  | some b =>
    rcases execTranslate_cases va hb with ⟨-, h⟩ | ⟨hlt, b', f, hl, h⟩ | ⟨hlt, b', e, hl, h⟩
    · exact ⟨_, Or.inl h⟩
    · exact ⟨_, Or.inr ⟨b, rfl, hlt, by rw [h, hl]⟩⟩
    · exact ⟨_, Or.inr ⟨b, rfl, hlt, by rw [h, hl]; rfl⟩⟩

/-- What a step does: it waits, answers an unassigned `op`, or runs a decoded operation from the
port. -/
theorem step_cases {s t : State} (h : step s = .next t) :
    (s.inbox = [] ∧ t = s) ∨
    ∃ c rest, s.inbox = c :: rest ∧
      ((∃ op, decode c = .error (.unassigned op) ∧
          t = (s.accept rest).raise (.illegalOp op)) ∨
        ∃ i, decode c = .ok i ∧ tooWideForPort s.params i = none ∧
          exec i (s.accept rest) = .next t) := by
  unfold step at h
  split at h
  · next hin => exact Or.inl ⟨hin, by cases h; rfl⟩
  · next c rest hin =>
    refine Or.inr ⟨c, rest, hin, ?_⟩
    unfold runCommand at h
    split at h
    · next op hd => exact Or.inl ⟨op, hd, by cases h; rfl⟩
    · next arg hd => cases h
    · next i hd =>
      unfold runDecoded at h
      split at h
      · cases h
      · next hw => exact Or.inr ⟨i, hd, hw, h⟩

end Sys2Proof.Machine
end

