-- ==== Sys2Proof/Tests/Slice0.lean ====
section
/-!
SUPPORT. The model's own tests. Expected values are those of 95_test_vectors.md (the section is named
with each) or read off the spec's tables by hand. The second half holds, for each obligation with
hypotheses, a concrete state and operands that meet them.
-/

namespace Sys2Proof.Tests

open Sys2Proof.Machine

/-! ### Helpers -/

/-- A configured machine at the default parameters, the host about to present `cmds`. -/
def onBlock (b : Block) (cmds : List Command) : State :=
  { params := Config.Params.spec, block := some b, issuer := .host, inbox := cmds, responses := [] }

/-- The same with the operation invoked by the block itself. -/
def inside (b : Block) : State := { onBlock b [] with issuer := .block }

/-- A fresh block with an empty table. -/
def empty (v p s : Nat) : Block :=
  freshBlock (Cfg.mk v p s) 0 (List.replicate (Cfg.mk v p s).pageCount 0)

/-- K4x2 after P2 step 4 (95_test_vectors.md Part 3): full, pages 0 and 1 present. -/
def full : Block :=
  { cfg := Cfg.mk 128 64 32, pt := [2, 3, 0, 0], cnt := [3, 1, 0, 0], fs := ⟨3⟩, faults := 2 }

/-- K4x2 after P2 step 3: page 0 present in frame 0. -/
def one : Block :=
  { cfg := Cfg.mk 128 64 32, pt := [2, 0, 0, 0], cnt := [3, 0, 0, 0], fs := ⟨1⟩, faults := 1 }

/-- A block no run reaches: every frame bound, no page present. -/
def stuck : Block := { empty 128 64 32 with fs := ⟨3⟩ }

def stateOf : Result → Option State
  | .next t => some t
  | _ => none

def refusalOf : Result → Option Refusal
  | .refused r => some r
  | _ => none

/-- What the spec states of a response: everything but the `info` of an OK response without a warning,
which is a free value (assumption log 19). -/
def stated (r : Response) : Response :=
  { r with info := if r.status = .ok ∧ r.warn = false then {} else r.info }

/-- The response an operation ended with, as far as the spec states it. -/
def answerOf (o : Result) : Option Response :=
  (stateOf o).bind fun t => t.responses.head?.map stated

/-- An expected response. -/
def shows (r : Response) : Option Response := some (stated r)

/-- The block after an operation. -/
def blockOf (o : Result) : Option Block := (stateOf o).bind fun t => t.block

/-! ### Well-formedness: ill-formed terms are refused -/

theorem test_wf_construct_refuses_unsorted : (Instr.construct 1 1 1 [(2, 0), (1, 0)]).wf = false := by
  decide
theorem test_wf_construct_refuses_repeated_key :
    (Instr.construct 1 1 1 [(1, 0), (1, 3)]).wf = false := by decide
theorem test_wf_ptbuild_refuses_unsorted : (Instr.ptbuild 4 6 [(3, 0), (1, 0)]).wf = false := by decide
theorem test_wf_ptbuild_refuses_repeated_key : (Instr.ptbuild 4 6 [(0, 1), (0, 1)]).wf = false := by
  decide
theorem test_wf_accepts_ascending : (Instr.construct 1 1 1 [(1, 9), (2, 0)]).wf = true := by decide

/-! ### Decoding: the codes of 30_encoding.md R90, bit by bit -/

theorem test_decode_construct :
    decode { op := 0b00000#5, arg0 := 512, arg1 := 256, arg2 := 32, map := [(7, 71), (1, 3)] } =
      .ok (.construct 512 256 32 [(1, 3), (7, 71)]) := by decide
theorem test_decode_translate : decode { op := 0b00001#5, arg0 := 0x45 } = .ok (.translate 0x45) := by
  decide
theorem test_decode_pack : decode { op := 0b00010#5, arg0 := 5, arg1 := 1 } = .ok (.pack 5 true) := by
  decide
theorem test_decode_unpack : decode { op := 0b00011#5, arg0 := 13 } = .ok (.unpack 13) := by decide
theorem test_decode_fmtbin : decode { op := 0b00100#5, arg0 := 13, arg1 := 8 } = .ok (.fmtbin 13 8) := by
  decide
theorem test_decode_split : decode { op := 0b00101#5, arg0 := 69 } = .ok (.split 69) := by decide
theorem test_decode_compose : decode { op := 0b00110#5, arg0 := 7, arg1 := 31 } = .ok (.compose 7 31) := by
  decide
theorem test_decode_ptget : decode { op := 0b00111#5, arg0 := 16 } = .ok (.ptget 16) := by decide
theorem test_decode_findfree : decode { op := 0b01000#5 } = .ok .findfree := by decide
theorem test_decode_selvict : decode { op := 0b01001#5 } = .ok .selvict := by decide
theorem test_decode_rdcnt : decode { op := 0b01010#5, arg0 := 4 } = .ok (.rdcnt 4) := by decide
theorem test_decode_rdfs : decode { op := 0b01011#5, arg0 := 2 } = .ok (.rdfs 2) := by decide
theorem test_decode_rdreg : decode { op := 0b01100#5, arg0 := 15 } = .ok (.rdreg 15) := by decide
theorem test_decode_snapshot : decode { op := 0b01101#5 } = .ok .snapshot := by decide
theorem test_decode_ptbuild :
    decode { op := 0b10000#5, arg0 := 16, arg1 := 8, map := [(3, 255)] } =
      .ok (.ptbuild 16 8 [(3, 255)]) := by decide
theorem test_decode_ptset : decode { op := 0b10001#5, arg0 := 9, arg1 := 13 } = .ok (.ptset 9 13) := by
  decide
theorem test_decode_evict : decode { op := 0b10010#5, arg0 := 1, arg1 := 2 } = .ok (.evict 1 2) := by
  decide
theorem test_decode_unassigned :
    decode { op := 0b01110#5 } = .error (.unassigned 0b01110#5) ∧
    decode { op := 0b01111#5 } = .error (.unassigned 0b01111#5) ∧
    decode { op := 0b10011#5 } = .error (.unassigned 0b10011#5) ∧
    decode { op := 0b11111#5 } = .error (.unassigned 0b11111#5) := by decide
theorem test_decode_last_pair_wins : PageMap.canon [(2, 7), (1, 5), (2, 9)] = [(1, 5), (2, 9)] := by
  decide
theorem test_table_word : decodeTableWord 8 0b00001101 = some .snapshot := by decide
theorem test_fetch_word :
    answerOf (step (State.reset.withFetchWord 8 0b00001110)) =
      shows { status := .illegalOp, info := { value := 0x0E } } := by decide

/-- 30_encoding.md R96 on Scenario B's first command (95_test_vectors.md 1.7), with a comment. -/
theorem test_assemble :
    assembleLine ("CONSTRUCT 32, 0x20, 0b10_0000, ".toList ++ openBrace :: "0: 1".toList ++
        closeBrace :: " => OK warn=0 ; K1x1".toList) =
      some { op := 0b00000#5, arg0 := 32, arg1 := 32, arg2 := 32, map := [(0, 1)] } := by decide

/-! ### One step of each operation -/

/-- 95_test_vectors.md 1.7 step 1. -/
theorem test_construct_scenario_b :
    blockOf (exec (.construct 32 32 32 [(0, 1)]) State.reset) =
      some { cfg := Cfg.mk 32 32 32, pt := [1], cnt := [0], fs := ⟨1⟩, faults := 0 } := by decide
/-- 95_test_vectors.md P4 step 0. -/
theorem test_construct_warns :
    answerOf (exec (.construct 256 128 32 [(0, 5), (3, 5), (4, 6), (6, 6)]) State.reset) =
      shows { warn := true, info := { subcode := 0, page := 0, value := 3, bound := 1 } } := by decide
/-- 95_test_vectors.md P2 step 5. -/
theorem test_translate_evicts :
    answerOf (exec (.translate 0x45) (onBlock full [])) = shows { res0 := 37 } ∧
    blockOf (exec (.translate 0x45) (onBlock full [])) =
      some { cfg := full.cfg, pt := [2, 0, 3, 0], cnt := [3, 0, 1, 0], fs := ⟨3⟩, faults := 3 } := by
  decide
/-- 95_test_vectors.md 1.8 step 4. -/
theorem test_translate_last_address :
    answerOf (exec (.translate 0x1FF) (onBlock (empty 512 256 32) [])) = shows { res0 := 31 } := by decide
/-- 95_test_vectors.md 2.1. -/
theorem test_pack_outside_contract :
    answerOf (exec (.pack 13 false) (onBlock (empty 512 256 32) [])) = shows { res0 := 5 } := by decide
/-- 95_test_vectors.md 2.2. -/
theorem test_unpack_ignores_reserved :
    answerOf (exec (.unpack 0x10D) (onBlock (empty 512 256 32) [])) =
      shows { res0 := 5, res1 := 1 } := by decide
/-- 95_test_vectors.md 2.3. -/
theorem test_fmtbin_short_group :
    answerOf (exec (.fmtbin 677 10) (onBlock full [])) =
      shows { list := .chars "10 1010 0101".toList } := by decide
/-- 95_test_vectors.md 2.3. -/
theorem test_fmtbin_refuses :
    refusalOf (exec (.fmtbin 16 4) (onBlock full [])) = some (.fmtbinOutsideDomain 16 4) := by decide
/-- 95_test_vectors.md 2.9. -/
theorem test_split :
    answerOf (exec (.split 0x45) (onBlock (empty 512 256 32) [])) = shows { res0 := 2, res1 := 5 } := by
  decide
/-- 95_test_vectors.md 2.9. -/
theorem test_split_does_not_wrap :
    answerOf (exec (.split 0x10005) (onBlock (empty 512 256 32) [])) =
      shows { status := .invalidPageError, info := { page := 2048, value := 65541, bound := 16 } } := by
  decide
/-- 95_test_vectors.md 2.10. -/
theorem test_compose_overlaps :
    answerOf (exec (.compose 1 33) (onBlock (empty 512 256 32) [])) = shows { res0 := 33 } := by decide
/-- 95_test_vectors.md 2.5: reserved bits are returned. -/
theorem test_ptget_returns_reserved_bits :
    answerOf (exec (.ptget 3) (onBlock { empty 512 256 32 with pt := [0, 0, 0, 255] } [])) =
      shows { res0 := 255 } := by decide
/-- 95_test_vectors.md 2.6: `FS` = 1, 2 under K8x4. -/
theorem test_findfree_fills_gap :
    answerOf (exec .findfree (onBlock { empty 256 128 32 with fs := ⟨6⟩ } [])) =
      shows { res0 := 0, res1 := 1 } := by decide
/-- 95_test_vectors.md 2.6: none under K1x1. -/
theorem test_findfree_none :
    answerOf (exec .findfree (onBlock { empty 32 32 32 with fs := ⟨1⟩ } [])) =
      shows { res0 := 0, res1 := 0 } := by decide
/-- 95_test_vectors.md 2.7: a tie goes to the lower page. -/
theorem test_selvict_tie :
    answerOf (exec .selvict (onBlock { full with pt := [0, 3, 0, 2], cnt := [0, 1, 0, 1] } [])) =
      shows { res0 := 1 } := by decide
/-- 95_test_vectors.md 2.13. -/
theorem test_rdcnt :
    answerOf (exec (.rdcnt 0) (onBlock full [])) = shows { res0 := 3 } ∧
    answerOf (exec (.rdcnt 4) (onBlock full [])) =
      shows { status := .outOfRangeError, info := { page := 4, value := 4, bound := 4 } } := by decide
/-- 95_test_vectors.md 2.13. -/
theorem test_rdfs :
    answerOf (exec (.rdfs 1) (onBlock one [])) = shows { res0 := 0 } ∧
    answerOf (exec (.rdfs 2) (onBlock one [])) =
      shows { status := .outOfRangeError, info := { page := 2, value := 2, bound := 2 } } := by decide
/-- 95_test_vectors.md 2.13. -/
theorem test_rdreg :
    answerOf (exec (.rdreg 9) (onBlock full [])) = shows { res0 := 6 } ∧
    answerOf (exec (.rdreg 12) (onBlock full [])) = shows { res0 := 31 } ∧
    answerOf (exec (.rdreg 15) (onBlock full [])) = shows { res0 := 2 } := by decide
/-- 45_host_interface.md R169, example (Scenario B after construction). -/
theorem test_snapshot :
    answerOf (exec .snapshot (onBlock { empty 32 32 32 with pt := [1], fs := ⟨1⟩ } [])) =
      shows { list := .rows [{ page := 0, entry := 1, frame := 0, present := true }] } := by decide
/-- 95_test_vectors.md 2.4: the smallest page is reported first. -/
theorem test_ptbuild_first_violation :
    answerOf (exec (.ptbuild 16 8 [(1, 999), (2, 256)]) (inside full)) =
      shows { status := .configError, info := { subcode := 7, page := 1, value := 999, bound := 256 } } := by
  decide
/-- 41_page_table.md R125, example. -/
theorem test_ptset :
    (blockOf (exec (.ptset 9 0x0D) (inside (empty 512 256 32)))).map (fun b => b.frameOf 9) = some 5 := by
  decide
/-- 95_test_vectors.md 2.8, third row: the reserved bit goes with the slot. -/
theorem test_evict_clears_slot :
    (blockOf (exec (.evict 7 4)
        (inside { empty 256 128 32 with pt := [4, 3, 0, 5, 0, 6, 0, 0x47], fs := ⟨15⟩ }))).map
      (fun b => (b.pt, b.cnt)) = some ([4, 3, 0, 5, 7, 6, 0, 0], [0, 0, 0, 0, 1, 0, 0, 0]) := by decide
/-- 95_test_vectors.md 2.14: an internal `op` from the host, before and after configuration. -/
theorem test_internal_from_host :
    answerOf (exec (.evict 0 1) (onBlock full [])) =
      shows { status := .illegalOp, info := { value := 0x12 } } ∧
    answerOf (exec (.ptset 0 8) State.reset) =
      shows { status := .illegalOp, info := { value := 0x11 } } := by decide


/-! ### Witnesses: each obligation's hypotheses, met together -/

/-- StepRunsDecodedOperation; at the largest address of a 9-bit port too. -/
theorem witness_step_runs :
    (onBlock full [{ op := 1#5, arg0 := 511 }]).inbox = { op := 1#5, arg0 := 511 } :: [] ∧
    decode { op := 1#5, arg0 := 511 } = .ok (.translate 511) ∧
    tooWideForPort Config.Params.spec (.translate 511) = none ∧
    tooWideForPort { Config.Params.spec with vaBitsPort := some 9 } (.translate 511) = none ∧
    tooWideForPort { Config.Params.spec with vaBitsPort := some 9 } (.translate 512) = some 512 := by
  decide
/-- StepWaitsWithoutCommand. -/
theorem witness_step_waits : State.reset.inbox = [] := by decide
/-- UnassignedOpAnswersIllegal, each clause, first and last code of the upper range. -/
theorem witness_unassigned :
    (onBlock full [{ op := 0x0E#5 }]).inbox = { op := 0x0E#5 } :: [] ∧
    (0x0F#5 = (0x0F#5 : OpCode)) ∧ 0x13 ≤ (0x13#5 : OpCode).toNat ∧ (0x1F#5 : OpCode).toNat ≤ 0x1F := by
  decide
/-- InternalOpRefusedAtPort. -/
theorem witness_internal :
    (onBlock full [{ op := 0x11#5, arg1 := 8 }]).inbox = { op := 0x11#5, arg1 := 8 } :: [] := by decide
/-- UnconfiguredAnswersNotConfigured. -/
theorem witness_unconfigured :
    State.reset.block = none ∧ (Instr.translate 5).opClass ≠ .internal ∧
    (Instr.translate 5).opcode ≠ 0x00#5 := by decide
/-- DecodeEncodeRoundTrip and DecodedIsWellFormedOfItsOp. -/
theorem witness_round_trip :
    (Instr.construct 512 256 32 [(0, 7), (15, 15)]).wf = true ∧
    decode (encode (.construct 512 256 32 [(0, 7), (15, 15)])) =
      .ok (.construct 512 256 32 [(0, 7), (15, 15)]) := by decide
/-- MapOrderDoesNotMatter. -/
theorem witness_map_order :
    List.Perm [(7, 71), (1, 3)] [((1 : Nat), (3 : Nat)), (7, 71)] ∧
    ([((7 : Nat), (71 : Nat)), (1, 3)].map Prod.fst).Nodup := by decide
/-- Every obligation that asks only for a configured block. -/
theorem witness_configured : (onBlock full []).block = some full := by decide
/-- PackBuildsEntry: the command, and a bit above the present bit. -/
theorem witness_pack :
    (encode (.pack 1 true)).op = 0x02#5 ∧ (encode (.pack 1 true)).arg0 = 1 ∧
    (encode (.pack 1 true)).arg1 = (if true then 1 else 0) ∧ full.cfg.frameBits < 2 := by decide
/-- UnpackReadsFields: two entries that differ in a reserved bit only. -/
theorem witness_unpack :
    7 % 2 ^ (full.cfg.frameBits + 1) = 3 % 2 ^ (full.cfg.frameBits + 1) ∧
    (encode (.unpack 3)).op = 0x03#5 ∧ (encode (.unpack 3)).arg0 = 3 := by decide
/-- PackUnpackLaws: the largest frame of K4x2. -/
theorem witness_pack_laws : full.cfg.Valid ∧ 1 < full.cfg.frameCount ∧
    full.cfg.pack 1 true = full.cfg.pack 1 true := by decide
/-- FmtbinGroupsDigits: the least width, a separator, and both sides of the domain. -/
theorem witness_fmtbin :
    (1 ≤ 1 ∧ 1 < 2 ^ 1) ∧ (1 ≤ 5 ∧ 31 < 2 ^ 5 ∧ 0 < 4 ∧ 4 < 5 ∧ 4 % 4 = 0) ∧ (2 ^ 4 ≤ 16) ∧
    (encode (.fmtbin 13 8)).op = 0x04#5 ∧ (encode (.fmtbin 13 8)).arg1 = 8 := by decide
/-- PtgetReadsSlot and RdcntReadsCounter: the last page, and the first number past it; an absent
page of a good block. -/
theorem witness_page_index :
    3 < full.cfg.pageCount ∧ full.cfg.pageCount ≤ 4 ∧ full.Good Config.Params.spec ∧
    full.isPresent 3 = false ∧ (encode (.ptget 3)).op = 0x07#5 ∧ (encode (.rdcnt 3)).op = 0x0A#5 := by
  decide
/-- PtsetWritesOneSlot: the last page and the largest entry. -/
theorem witness_ptset :
    (inside full).block = some full ∧ (inside full).issuer = .block ∧ 3 < full.cfg.pageCount ∧
    63 < 2 ^ full.cfg.entryBits ∧ full.Shaped := by decide
/-- PtsetRefusedOutsidePreconditions: each clause just outside. -/
theorem witness_ptset_refused :
    (inside full).issuer = .block ∧ full.cfg.pageCount ≤ 4 ∧ 2 ^ full.cfg.entryBits ≤ 64 := by decide
/-- PtbuildReturnsTable: an accepted map, and a first violation of each kind. -/
theorem witness_ptbuild :
    (inside full).issuer = .block ∧ PageMap.Ascending [(0, 31), (3, 63)] ∧
    (∀ pe ∈ [((0 : Nat), (31 : Nat)), (3, 63)], pe.1 < 4 ∧ pe.2 < 2 ^ 6) ∧
    PageMap.Ascending [(0, 31), (3, 64)] ∧ (∀ pe ∈ [((0 : Nat), (31 : Nat))], pe.1 < 4 ∧ pe.2 < 2 ^ 6) ∧
    3 < 4 ∧ 2 ^ 6 ≤ 64 ∧ 4 ≤ 4 ∧ 5 ≤ 5 := by decide
/-- FindfreeAnswersLowestFree: a lowest free frame, no free frame, and an operation after which there
is none still. -/
theorem witness_findfree :
    (1 < one.cfg.frameCount ∧ one.fs.mem 1 = false ∧ ∀ g, g < 1 → one.fs.mem g = true) ∧
    (∀ f, f < full.cfg.frameCount → full.fs.mem f = true) ∧ (onBlock full []).issuer = .host ∧
    (Instr.translate 0x45).opcode ≠ 0x00#5 ∧
    (stateOf (exec (.translate 0x45) (onBlock full []))).isSome = true := by decide
/-- FramesHandedOutInOrder: the first and the last free frame of K4x2. -/
theorem witness_frames_in_order :
    (empty 128 64 32).cfg.Valid ∧ (empty 128 64 32).isPresent (0x45 / 32) = false ∧
    0x45 / 32 < (empty 128 64 32).cfg.pageCount ∧ 0 < (empty 128 64 32).cfg.frameCount ∧
    one.isPresent (0x45 / 32) = false ∧ 1 < one.cfg.frameCount := by decide
theorem witness_frames_bound :
    (∀ f, (empty 128 64 32).fs.mem f = true ↔ f < 0) ∧ (∀ f, one.fs.mem f = true ↔ f < 1) := by
  refine ⟨fun f => ?_, fun f => ?_⟩
  · rw [show (empty 128 64 32).fs = FrameSet.empty by decide]; simp
  · rw [show one.fs = FrameSet.empty.insert 0 by decide]; simp; omega
/-- SelvictAnswersLeastUsed and PolicyOrderHasUniqueMinimum: page 1 is the least; none is present. -/
theorem witness_selvict :
    (1 < full.cfg.pageCount ∧ full.isPresent 1 = true ∧
      ∀ q, q < full.cfg.pageCount → full.isPresent q = true → q ≠ 1 →
        full.count 1 < full.count q ∨ (full.count 1 = full.count q ∧ 1 < q)) ∧
    (∀ q, q < stuck.cfg.pageCount → stuck.isPresent q = false) := by decide
/-- EvictReassignsFrame. -/
theorem witness_evict :
    (inside full).issuer = .block ∧ 1 < full.cfg.pageCount ∧ 3 < full.cfg.pageCount ∧
    full.isPresent 1 = true ∧ full.isPresent 3 = false ∧ full.Shaped := by decide
/-- EvictRefusedOutsidePreconditions: each clause. -/
theorem witness_evict_refused :
    full.cfg.pageCount ≤ 4 ∧ full.isPresent 2 = false ∧ full.isPresent 0 = true := by decide
/-- SplitDerivesPageAndOffset: `V` − 1 and `V`. -/
theorem witness_split :
    127 >>> full.cfg.offsetBits < full.cfg.pageCount ∧ full.cfg.pageCount ≤ 128 >>> full.cfg.offsetBits ∧
    full.cfg.Valid := by decide
/-- ComposeBuildsPhysicalAddress: the largest frame and offset. -/
theorem witness_compose : full.cfg.Valid ∧ 1 < full.cfg.frameCount ∧ 31 < full.cfg.s := by decide
/-- TranslateFollowsItsStateMachine: each of the five ends. -/
theorem witness_translate :
    full.cfg.pageCount ≤ 128 >>> full.cfg.offsetBits ∧
    (31 >>> full.cfg.offsetBits < full.cfg.pageCount ∧ full.isPresent (31 >>> full.cfg.offsetBits) = true) ∧
    (127 >>> one.cfg.offsetBits < one.cfg.pageCount ∧ one.isPresent (127 >>> one.cfg.offsetBits) = false ∧
      1 < one.cfg.frameCount ∧ one.fs.mem 1 = false ∧ ∀ g, g < 1 → one.fs.mem g = true) ∧
    (full.isPresent (127 >>> full.cfg.offsetBits) = false ∧
      (∀ f, f < full.cfg.frameCount → full.fs.mem f = true) ∧
      ∀ q, q < full.cfg.pageCount → full.isPresent q = true → q ≠ 1 → full.before 1 q) ∧
    (127 >>> stuck.cfg.offsetBits < stuck.cfg.pageCount ∧
      (∀ f, f < stuck.cfg.frameCount → stuck.fs.mem f = true) ∧
      ∀ q, q < stuck.cfg.pageCount → stuck.isPresent q = false) := by decide

/-- The state and the response of a successful TRANSLATE: PhysicalAddressInRange,
TranslateAgainIsAHit, SamePageSharesFrame, NoVictimUnreachableInTranslate. -/
theorem witness_translate_ok :
    exec (.translate 0x45) (onBlock full []) =
      .next (((onBlock full []).withBlock (full.lookup Config.Params.spec 2).1).respond { res0 := 37 }) ∧
    full.cfg.Valid ∧ full.Shaped ∧ full.Good Config.Params.spec ∧ 0x5F / full.cfg.s = 0x45 / full.cfg.s :=
  ⟨rfl, by decide⟩
/-- ConstructInstallsState: accepted operands, the limits met with equality. -/
theorem witness_construct :
    (∃ k, 32 = 2 ^ k) ∧ (∃ k, 128 = 2 ^ k) ∧ (∃ k, 64 = 2 ^ k) ∧ 128 % 32 = 0 ∧ 64 % 32 = 0 ∧
    PageMap.Ascending [(0, 2), (3, 63)] ∧
    (∀ pe ∈ [((0 : Nat), (2 : Nat)), (3, 63)], pe.1 < 128 / 32 ∧ pe.2 < 2 ^ (Nat.log2 (64 / 32) + 5)) ∧
    (∀ m, some 128 = some m → 128 ≤ m) :=
  ⟨⟨5, rfl⟩, ⟨7, rfl⟩, ⟨6, rfl⟩, by decide, by decide, by decide, by decide,
    fun m h => by cases h; decide⟩
/-- ConstructReportsFirstViolation: a size that is no power of two, sizes below `S`, and a first
violation of each kind after an accepted entry. -/
theorem witness_construct_violations :
    (¬ ∃ k, 0 = 2 ^ k) ∧ (∃ k, 1 = 2 ^ k) ∧ 16 % 32 ≠ 0 ∧
    [((0 : Nat), (2 : Nat)), (3, 64)] = [(0, 2)] ++ (3, 64) :: [] ∧
    [((0 : Nat), (2 : Nat)), (4, 0)] = [(0, 2)] ++ (4, 0) :: [] ∧
    (0 < 128 / 32 ∧ 2 < 2 ^ (Nat.log2 (64 / 32) + 5)) ∧ 3 < 128 / 32 ∧ 128 / 32 ≤ 4 ∧
    2 ^ (Nat.log2 (64 / 32) + 5) ≤ 64 :=
  ⟨fun ⟨k, h⟩ => absurd h (Nat.two_pow_pos k).ne, ⟨0, rfl⟩, by decide⟩
/-- FailedConstructChangesNothing, and ConstructWarnsOfDuplicateClaims for a failure. -/
theorem witness_construct_fails :
    exec (.construct 512 256 24 []) (onBlock full []) = .next ((onBlock full []).respond
      { status := .configError, info := { subcode := 1, value := 24 } }) := rfl
/-- ConstructForgetsThePast from two different pasts; ConstructWarnsOfDuplicateClaims with a warning;
StepKeepsNoAlias without one. -/
theorem witness_construct_succeeds :
    answerOf (exec (.construct 128 64 32 [(0, 2), (1, 2)]) (onBlock full [])) =
      shows { warn := true, info := { subcode := 0, page := 0, value := 1, bound := 0 } } ∧
    (stateOf (exec (.construct 128 64 32 [(0, 2), (1, 2)]) State.reset)).isSome = true ∧
    (onBlock full []).params = State.reset.params ∧
    answerOf (exec (.construct 128 64 32 [(0, 2), (1, 3)]) State.reset) = shows {} := by decide
/-- ConstructAboveLimitIsTurnedAway: one above a finite `MAX_V`, one above a finite `MAX_P`. -/
theorem witness_construct_above_limit :
    (∃ m, (some 127 = some m ∧ m < 128) ∨ ((none : Option Nat) = some m ∧ m < 64)) ∧
    (∃ m, ((none : Option Nat) = some m ∧ m < 128) ∨ (some 63 = some m ∧ m < 64)) :=
  ⟨⟨127, Or.inl (by decide)⟩, ⟨63, Or.inr (by decide)⟩⟩
/-- RdfsTestsMembership and RdregReadsRegisterMap: the last index of each and the first past it. -/
theorem witness_indices :
    1 < full.cfg.frameCount ∧ full.cfg.frameCount ≤ 2 ∧ full.FramesInRange ∧ 16 ≤ 16 ∧
    [full.cfg.v, full.faults, 2][2]? = some 2 := by decide
/-- SnapshotListsEveryPage: the last page. -/
theorem witness_snapshot : 3 < full.cfg.pageCount ∧ (encode .snapshot).op = 0x0D#5 := by decide
/-- EveryOperationRespondsOnce, ProbesAreRepeatable and SilentResponseCarriesFreeInfo. -/
theorem witness_probe :
    (Instr.findfree).opClass = .probe ∧
    exec .findfree (onBlock one []) = .next ((onBlock one []).respond { res0 := 1, res1 := 1 }) :=
  ⟨by decide, rfl⟩
/-- OnlyEntryPointsWriteTheBlock and ErrorsLeaveTheState, with an error. -/
theorem witness_step_error :
    step (onBlock full [{ op := 0x07#5, arg0 := 4 }]) = .next ((onBlock full []).respond
      { status := .outOfRangeError, info := { page := 4, value := 4, bound := 4 } }) ∧
    (0x07#5 : OpCode) ≠ 0x00#5 ∧ (0x07#5 : OpCode) ≠ 0x01#5 := ⟨rfl, by decide⟩
/-- ErrorsLeaveTheState, the clause of the fault counter (in a state no run reaches). -/
theorem witness_step_no_victim :
    step (onBlock stuck [{ op := 0x01#5, arg0 := 5 }]) =
      .next (((onBlock stuck []).withBlock { stuck with faults := 1 }).respond
        { status := .noVictimError, info := {} }) := rfl
/-- WarnOnlyFromConstruct. -/
theorem witness_warn :
    State.reset.issuer = .host ∧
    (answerOf (exec (.construct 128 64 32 [(0, 2), (1, 2)]) State.reset)).map Response.warn = some true := by
  decide
/-- FaultCounterCountsMisses and FrameSetOnlyGrows: a miss into a free frame, a hit, a miss by
eviction, a probe; ResidentsNeverDecrease with a full and a partly empty set. -/
theorem witness_miss :
    (onBlock one []).issuer = .host ∧ (Instr.translate 0x45).opcode ≠ 0x00#5 ∧
    (0x45 >>> one.cfg.offsetBits < one.cfg.pageCount ∧ one.isPresent (0x45 >>> one.cfg.offsetBits) = false) ∧
    one.isPresent (0x05 >>> one.cfg.offsetBits) = true ∧
    (stateOf (exec (.translate 0x45) (onBlock one []))).isSome = true ∧
    (stateOf (exec .selvict (onBlock one []))).isSome = true ∧
    one.Good Config.Params.spec ∧ full.Good Config.Params.spec ∧
    (∀ f, f < full.cfg.frameCount → full.fs.mem f = true) := by decide
/-- CountersSaturate: the top of a 2-bit counter and the value below it. -/
theorem witness_counters : 3 < 2 ^ 2 ∧ 2 < 2 ^ 2 ∧ 2 + 1 < 2 ^ 2 := by decide
/-- RefusalsAreOnlyThoseOfTheLog: each refusal occurs. -/
theorem witness_refusals :
    refusalOf (step (onBlock full [{ op := 0x04#5, arg0 := 5, arg1 := 0 }])) =
      some (.fmtbinOutsideDomain 5 0) ∧
    refusalOf (step (onBlock full [{ op := 0x02#5, arg0 := 1, arg1 := 2 }])) =
      some (.booleanNotOneBit 2) ∧
    refusalOf (step { onBlock full [{ op := 0x05#5, arg0 := 128 }] with
      params := { Config.Params.spec with vaBitsPort := some 7 } }) =
      some (.addressWiderThanPort 128) := by decide
/-- StepKeepsGood and StepKeepsNoAlias: a good state without an alias that steps by eviction. -/
theorem witness_good :
    (onBlock full [{ op := 0x01#5, arg0 := 0x45 }]).Good ∧ full.NoAlias ∧
    (0x01#5 : OpCode) ≠ 0x00#5 ∧
    (stateOf (step (onBlock full [{ op := 0x01#5, arg0 := 0x45 }]))).isSome = true := by decide
/-- ResidentsEqualFramesWithoutAlias. -/
theorem witness_no_alias : full.Good Config.Params.spec ∧ full.NoAlias ∧ full.residents = 2 := by decide

end Sys2Proof.Tests
end

section
/-!
SUPPORT. Facts that the statements of 10_state.md share: the operation code of a decoded command,
what a host operation does to a configured block, the block a CONSTRUCT installs, and the registers
RDREG reads.
-/

namespace Sys2Proof

/-! ### The operation code of a decoded command (30_encoding.md R90) -/

theorem decodePack_eq_ok {frame present : Nat} {i : Instr} (h : decodePack frame present = .ok i) :
    ∃ b, i = .pack frame b := by
  unfold decodePack at h
  split at h
  · next b hb => exact ⟨b, (Except.ok.inj h).symm⟩
  · cases h

/-- The decoder gives the operation of the command's own `op`. -/
theorem opcode_of_decode {c : Command} {i : Instr} (h : decode c = .ok i) : i.opcode = c.op := by
  refine BitVec.eq_of_toNat_eq ?_
  unfold decode at h
  split at h
  case h_3 hop =>
    obtain ⟨b, rfl⟩ := decodePack_eq_ok h
    exact hop.symm
  case h_18 => cases h
  all_goals
    next hop =>
      cases h
      exact hop.symm

/-- CONSTRUCT and TRANSLATE are the operations of class H (30_encoding.md R90). -/
theorem Instr.opClass_eq_entryPoint_iff {i : Instr} :
    i.opClass = .entryPoint ↔ i.opcode = 0x00#5 ∨ i.opcode = 0x01#5 := by
  cases i <;> simp [Instr.opClass, Instr.opcode]

end Sys2Proof

namespace Sys2Proof.Machine

/-! ### The block after a lookup (44_translator.md R150) -/

theorem Block.lookup_faults_of_present {b : Block} {vpn : Nat} (pr : Config.Params)
    (h : b.isPresent vpn = true) : (b.lookup pr vpn).1.faults = b.faults := by
  simp [Block.lookup, h]

/-- However a miss ends, it has stepped the fault counter once (10_state.md R30). -/
theorem Block.lookup_faults_of_absent {b : Block} {vpn : Nat} (pr : Config.Params)
    (h : b.isPresent vpn = false) : (b.lookup pr vpn).1.faults = incW pr.faultBits b.faults := by
  rcases b.lookup_cases pr vpn with
    ⟨hp, -⟩ | ⟨-, f, -, hl⟩ | ⟨-, -, v, -, hl⟩ | ⟨-, -, -, hl⟩
  · simp [h] at hp
  all_goals simp [hl]

/-- A lookup leaves the FrameSet, or is a miss that inserts the frame FINDFREE answers
(10_state.md R28). -/
theorem Block.lookup_fs (b : Block) (pr : Config.Params) (vpn : Nat) :
    (b.lookup pr vpn).1.fs = b.fs ∨
      b.isPresent vpn = false ∧
        ∃ f, b.findFree = some f ∧ (b.lookup pr vpn).1.fs = b.fs.insert f := by
  rcases b.lookup_cases pr vpn with
    ⟨-, hl⟩ | ⟨hp, f, hf, hl⟩ | ⟨-, -, v, -, hl⟩ | ⟨-, -, -, hl⟩
  · exact Or.inl (by simp [hl])
  · exact Or.inr ⟨hp, f, hf, by simp [hl]⟩
  · exact Or.inl (by simp [hl])
  · exact Or.inl (by simp [hl])

/-- What an operation of the host other than CONSTRUCT does to a configured block: it leaves it and
is no TRANSLATE of a valid page, or it is one and the block is the one after the lookup. -/
theorem exec_block_cases {s t : State} {b : Block} {i : Instr} (hs : s.issuer = .host)
    (hb : s.block = some b) (hi : i.opcode ≠ 0x00#5) (h : exec i s = .next t) :
    (t.block = some b ∧ ∀ va, i = .translate va → b.cfg.pageCount ≤ b.cfg.vpn va) ∨
    ∃ va, i = .translate va ∧ b.cfg.vpn va < b.cfg.pageCount ∧
      t.block = some (b.lookup s.params (b.cfg.vpn va)).1 := by
  by_cases htr : ∃ va, i = .translate va
  · obtain ⟨va, rfl⟩ := htr
    have hexec : execTranslate va s = .next t := h
    rcases execTranslate_cases va hb with ⟨hle, he⟩ | ⟨hlt, b', f, hl, he⟩ | ⟨hlt, b', e, hl, he⟩
    · cases he.symm.trans hexec
      refine Or.inl ⟨by simp [hb], fun va' hva => ?_⟩
      cases hva
      exact hle
    · cases he.symm.trans hexec
      exact Or.inr ⟨va, rfl, hlt, by simp [hl]⟩
    · cases he.symm.trans hexec
      exact Or.inr ⟨va, rfl, hlt, by simp [hl]⟩
  · have hclass : i.opClass ≠ .entryPoint := by
      cases i with
      | construct v p sz init => exact absurd rfl hi
      | translate va => exact absurd ⟨va, rfl⟩ htr
      | _ => simp [Instr.opClass]
    rcases exec_only_responds hs hclass with ⟨r, he⟩ | ⟨value, width, -, -, he⟩
    · cases he.symm.trans h
      exact Or.inl ⟨by simp [hb], fun va hva => absurd ⟨va, hva⟩ htr⟩
    · cases he.symm.trans h

/-! ### The block a CONSTRUCT installs (45_host_interface.md R160) -/

/-- `frame_bits` needs no case distinction: the logarithm of 0 and of 1 is 0. -/
theorem Cfg.frameBits_eq_log2 (c : Cfg) : c.frameBits = Nat.log2 c.frameCount := by
  rw [Cfg.frameBits]
  split
  · next h => interval_cases c.frameCount <;> rfl
  · rfl

/-- On a legal configuration, entries that pass PTBUILD's checks, and sizes within the limits,
CONSTRUCT installs the fresh block. -/
theorem execConstruct_of_valid {v p sz : Nat} {init : PageMap} {s : State}
    (hcfg : (Cfg.mk v p sz).Valid)
    (hinit : ∀ pe ∈ init, pe.1 < (Cfg.mk v p sz).pageCount ∧ pe.2 < 2 ^ (Cfg.mk v p sz).entryBits)
    (hlim : aboveLimit s.params v p = false) :
    ∃ w, execConstruct v p sz init s = .next
      ((s.withBlock (freshBlock (Cfg.mk v p sz) s.params.initUsage
        (overlay (Cfg.mk v p sz).pageCount init))).respond (.ofWarning w)) :=
  ⟨duplicateClaim ((Cfg.mk v p sz).entryBits - controlBits)
      (overlay (Cfg.mk v p sz).pageCount init), by
    simp [execConstruct, constructBlock, sizeViolation_eq_none_iff.2 hcfg, ptBuild,
      entryViolation_eq_none_iff.2 hinit, hlim]⟩

theorem aboveLimit_eq_false_of_le {pr : Config.Params} {v p : Nat}
    (hv : ∀ m, pr.maxV = some m → v ≤ m) (hp : ∀ m, pr.maxP = some m → p ≤ m) :
    aboveLimit pr v p = false := by
  refine Bool.eq_false_iff.2 fun h => ?_
  rcases aboveLimit_eq_true_iff.1 h with ⟨m, hm, hlt⟩ | ⟨m, hm, hlt⟩
  · exact absurd (hv m hm) (by omega)
  · exact absurd (hp m hm) (by omega)

@[simp] theorem Response.ofWarning_res0 (w : Option Info) : (Response.ofWarning w).res0 = 0 := by
  cases w <;> rfl
@[simp] theorem Response.ofWarning_res1 (w : Option Info) : (Response.ofWarning w).res1 = 0 := by
  cases w <;> rfl
@[simp] theorem Response.ofWarning_list (w : Option Info) :
    (Response.ofWarning w).list = .empty := by
  cases w <;> rfl

@[simp] theorem Block.freshBlock_entry (c : Cfg) (u : Nat) (t : List Nat) (q : Nat) :
    (freshBlock c u t).entry q = t.getD q 0 := rfl

@[simp] theorem initialCounts_length (c : Cfg) (u : Nat) (t : List Nat) :
    (initialCounts c u t).length = t.length := by
  simp [initialCounts]

/-- The counter of each page of a fresh block. -/
theorem Block.freshBlock_count {t : List Nat} {q : Nat} (c : Cfg) (u : Nat) (hq : q < t.length) :
    (freshBlock c u t).count q = if (freshBlock c u t).isPresent q then u else 0 := by
  simp [Block.count, Block.isPresent, initialCounts, hq]

/-- The frames of a fresh block's present pages, and no others, are in its FrameSet. -/
theorem Block.freshBlock_mem_fs {c : Cfg} {u : Nat} {t : List Nat} {f : Nat} :
    (freshBlock c u t).fs.mem f = true ↔
      ∃ q, q < t.length ∧ (freshBlock c u t).isPresent q = true ∧
        (freshBlock c u t).frameOf q = f := by
  rw [Block.freshBlock_fs, mem_initialFrames]
  simp only [Block.isPresent, Block.frameOf, Block.freshBlock_cfg, Block.freshBlock_entry]
  constructor
  · rintro ⟨e, he, hpres, hframe⟩
    obtain ⟨q, hq, rfl⟩ := List.mem_iff_getElem.1 he
    exact ⟨q, hq, by simpa [hq] using hpres, by simpa [hq] using hframe⟩
  · rintro ⟨q, hq, hpres, hframe⟩
    rw [List.getD_eq_getElem _ _ hq] at hpres hframe
    exact ⟨t[q], List.getElem_mem hq, hpres, hframe⟩

/-! ### The registers RDREG reads (10_state.md R37) -/

/-- Counting the numbers below `n` that satisfy `p` gives the same for every bound above which none
does. -/
theorem countP_range_of_le {p : Nat → Bool} {m n : Nat} (hmn : m ≤ n)
    (hp : ∀ k, m ≤ k → p k = false) : (List.range n).countP p = (List.range m).countP p := by
  obtain ⟨d, rfl⟩ := Nat.exists_eq_add_of_le hmn
  rw [List.range_add, List.countP_append]
  simp [hp]

/-- The size of a set of frames below `n`: the scan up to the highest member counts all of them. -/
theorem FrameSet.card_eq_countP {fs : FrameSet} {n : Nat} (h : fs.bits < 2 ^ n) :
    fs.card = (List.range n).countP fs.mem := by
  have outside : ∀ m, fs.bits < 2 ^ m → ∀ k, m ≤ k → fs.mem k = false := fun m hm k hk =>
    Bool.eq_false_iff.2 fun hmem => absurd (FrameSet.mem_lt hm hmem) (by omega)
  rw [FrameSet.card]
  rcases Nat.le_total (fs.bits.log2 + 1) n with hle | hle
  · exact (countP_range_of_le hle (outside _ Nat.lt_log2_self)).symm
  · exact countP_range_of_le hle (outside n h)

/-- The sixteen registers of the map, selector 0 first. -/
def Block.registers (b : Block) : List Nat :=
  [1, b.cfg.v, b.cfg.p, b.cfg.s, b.cfg.pageCount, b.cfg.frameCount, b.cfg.offsetBits,
    b.cfg.vpnBits, b.cfg.frameBits, b.cfg.entryBits, b.cfg.frameMask, b.cfg.presentMask,
    b.cfg.offsetMask, controlBits, b.faults, b.fs.card]

theorem Block.readReg_of_registers {b : Block} {sel value : Nat}
    (h : b.registers[sel]? = some value) : b.readReg sel = .ok value := by
  obtain ⟨hsel, rfl⟩ := List.getElem?_eq_some_iff.1 h
  have hlt : sel < 16 := hsel
  interval_cases sel <;> rfl

theorem Block.readReg_of_reserved {sel : Nat} (b : Block) (h : 16 ≤ sel) :
    b.readReg sel = .error (.outOfRange sel 16) := by
  obtain ⟨k, rfl⟩ := Nat.exists_eq_add_of_le' h
  rfl

theorem exec_rdreg_ok {s : State} {b : Block} {sel value : Nat} (hb : s.block = some b)
    (h : b.readReg sel = .ok value) :
    exec (.rdreg sel) s = .next (s.respond { res0 := value }) :=
  State.probe_ok (r := .ofNat value) hb (by rw [h]; rfl)

theorem exec_rdreg_error {s : State} {b : Block} {sel : Nat} {e : OpError} (hb : s.block = some b)
    (h : b.readReg sel = .error e) : exec (.rdreg sel) s = .next (s.raise e) :=
  State.probe_error hb (by rw [h]; rfl)

end Sys2Proof.Machine
end

section
/-!
The statements of 10_state.md, settled.
-/

namespace Sys2Proof.Machine

/-- Settles O36: on accepted operands CONSTRUCT installs the fresh block around the overlay of the
map, whose contents the lemmas on `overlay` and `freshBlock` give. -/
theorem constructInstallsState : Obligations.ConstructInstallsState := by
  refine ⟨rfl, fun s v p sz init hsz hv hp hvs hps hasc hinit hmaxV hmaxP => ?_⟩
  have hcfg : (Cfg.mk v p sz).Valid :=
    ⟨(isPow2_iff v).2 hv, (isPow2_iff p).2 hp, (isPow2_iff sz).2 hsz, hvs, hps⟩
  have hbits : (Cfg.mk v p sz).entryBits = Nat.log2 (p / sz) + 5 := by
    rw [Cfg.entryBits, Cfg.frameBits_eq_log2]; rfl
  obtain ⟨-, -, -, hpages, hframes⟩ := hcfg.arith
  obtain ⟨w, hexec⟩ := execConstruct_of_valid (s := s) hcfg (by rwa [hbits])
    (aboveLimit_eq_false_of_le hmaxV hmaxP)
  have hlen : (overlay (v / sz) init).length = v / sz := overlay_length _ _
  refine ⟨_, _, hexec, by simp, by simp, by simp, by simp, rfl, hpages, hframes, hlen,
    (initialCounts_length _ _ _).trans hlen, ?_, ?_, ?_, ?_, rfl⟩
  · exact fun pe hpe => overlay_getD_of_mem hasc hpe (hinit pe hpe).1
  · exact fun q _ hq => overlay_getD_of_not_mem hq
  · exact fun q hq => Block.freshBlock_count _ _ (by rwa [Cfg.pageCount, hlen])
  · intro f
    rw [Block.freshBlock_mem_fs, overlay_length]
    rfl

/-- Settles O38: of the two ends of CONSTRUCT only the one that raises a ConfigError has a status
other than OK. -/
theorem failedConstructChangesNothing : Obligations.FailedConstructChangesNothing := by
  intro s t v p sz init r h hresp hr
  have hexec : execConstruct v p sz init s = .next t := h
  rcases execConstruct_cases v p sz init s with ⟨e, hstatus, he⟩ | ⟨-, -, -, he⟩
  · cases he.symm.trans hexec
    obtain ⟨rfl, -⟩ := List.cons.inj hresp
    exact ⟨hstatus, rfl⟩
  · cases he.symm.trans hexec
    obtain ⟨rfl, -⟩ := List.cons.inj hresp
    simp at hr

/-- Settles O44: the statement's list is the model's register map, `FS_COUNT` counted over the
frames. -/
theorem rdregReadsRegisterMap : Obligations.RdregReadsRegisterMap := by
  intro s b sel hb hframes
  refine ⟨fun value hvalue => ?_, fun hsel => ?_, fun c hop harg => ?_⟩
  · refine exec_rdreg_ok hb (Block.readReg_of_registers ?_)
    rw [← hvalue, Block.registers, FrameSet.card_eq_countP hframes, List.countP_eq_length_filter,
      Cfg.frameMask, Cfg.presentMask, Cfg.entryBits, Cfg.frameBits_eq_log2]
    rfl
  · exact exec_rdreg_error hb (b.readReg_of_reserved hsel)
  · simp [decode, hop, harg]

/-- Settles O47: the step answers an unassigned `op`, or runs an operation that only responds. -/
theorem onlyEntryPointsWriteTheBlock : Obligations.OnlyEntryPointsWriteTheBlock := by
  intro s t c rest hin hconstruct htranslate h
  rcases step_cases h with ⟨hnil, -⟩ | ⟨c', rest', hin', hrun⟩
  · simp [hin] at hnil
  · obtain ⟨rfl, rfl⟩ := List.cons.inj (hin.symm.trans hin')
    rcases hrun with ⟨op, -, rfl⟩ | ⟨i, hdec, -, hexec⟩
    · simp
    · have hclass : i.opClass ≠ .entryPoint := by
        rw [Ne, Instr.opClass_eq_entryPoint_iff, opcode_of_decode hdec]
        exact fun hop => hop.elim hconstruct htranslate
      rcases exec_only_responds (State.accept_issuer s rest) hclass with
        ⟨r, he⟩ | ⟨value, width, -, -, he⟩
      · cases he.symm.trans hexec
        simp
      · cases he.symm.trans hexec

/-- Settles O51: an operation that is no TRANSLATE of a valid page leaves the block; a lookup steps
the counter exactly when the page is absent. -/
theorem faultCounterCountsMisses : Obligations.FaultCounterCountsMisses := by
  intro s t b i hs hb hi h
  refine ⟨?_, exec_rdreg_ok hb rfl⟩
  rcases exec_block_cases hs hb hi h with ⟨ht, hnone⟩ | ⟨va, rfl, hlt, ht⟩
  · refine ⟨b, ht, fun ⟨va, hva, hlt, _⟩ => ?_, fun _ => rfl⟩
    exact absurd hlt (Nat.not_lt.2 (hnone va hva))
  · refine ⟨_, ht, fun ⟨va', hva, _, habsent⟩ => ?_, fun hnomiss => ?_⟩
    · cases hva
      exact Block.lookup_faults_of_absent _ habsent
    · refine Block.lookup_faults_of_present _ (Bool.of_not_eq_false fun habsent => ?_)
      exact hnomiss ⟨va, rfl, hlt, habsent⟩

/-- Settles O53: only a lookup writes `FS`, and all it does is insert the frame FINDFREE answers. -/
theorem frameSetOnlyGrows : Obligations.FrameSetOnlyGrows := by
  intro s t b i hs hb hi h
  rcases exec_block_cases hs hb hi h with ⟨ht, -⟩ | ⟨va, rfl, hlt, ht⟩
  · exact ⟨b, ht, fun f hf => hf, Or.inl rfl⟩
  · refine ⟨_, ht, ?_⟩
    rcases b.lookup_fs s.params (b.cfg.vpn va) with hfs | ⟨habsent, f, hfree, hfs⟩
    · exact ⟨fun f hf => by rwa [hfs], Or.inl hfs⟩
    · obtain ⟨hf, hnew, -⟩ := Block.findFree_eq_some_iff.1 hfree
      exact ⟨fun g hg => by simp [hfs, hg],
        Or.inr ⟨va, f, rfl, hlt, habsent, hf, hnew, hfs⟩⟩

/-- Settles O52: `inc_w` lowers no counter that fits and stays in the width; below the top the
minimum is the step by one. -/
theorem countersSaturate : Obligations.CountersSaturate := by
  refine ⟨fun n => rfl, fun w n hn => ⟨rfl, le_incW (by simpa [Config.fits] using hn), ?_, ?_⟩⟩
  · simpa [Config.fits] using fits_incW (some w) n
  · intro htop
    exact Nat.min_eq_left (by omega)

end Sys2Proof.Machine
end

section
/-!
SUPPORT. Facts that the statements of 20_memory.md share: the range of the frame a lookup answers,
the physical address composed of a frame and an offset, and what a TRANSLATE that ends OK did.
-/

namespace Sys2Proof.Machine

/-! ### The frame a lookup answers (44_translator.md R150) -/

theorem Cfg.frame_lt {c : Cfg} (hc : c.Valid) (entry : Nat) : c.frame entry < c.frameCount := by
  obtain ⟨-, hfc, -⟩ := hc.arith
  rw [hfc]
  exact frameField_lt c.frameBits entry

/-- A lookup answers the frame field of an entry or a frame FINDFREE found, both in range. -/
theorem Block.lookup_frame_lt {b b' : Block} {pr : Config.Params} {vpn f : Nat} (hc : b.cfg.Valid)
    (h : b.lookup pr vpn = (b', .ok f)) : f < b.cfg.frameCount := by
  rcases b.lookup_cases pr vpn with
    ⟨-, hl⟩ | ⟨-, g, hfree, hl⟩ | ⟨-, -, v, -, hl⟩ | ⟨-, -, -, hl⟩
  · cases h.symm.trans hl
    exact Cfg.frame_lt hc _
  · cases h.symm.trans hl
    exact (Block.findFree_eq_some_iff.1 hfree).1
  · cases h.symm.trans hl
    exact Cfg.frame_lt hc _
  · cases h.symm.trans hl

theorem Block.lookup_error_eq_noVictim {b b' : Block} {pr : Config.Params} {vpn : Nat} {e : OpError}
    (h : b.lookup pr vpn = (b', .error e)) : e = .noVictim := by
  rcases b.lookup_cases pr vpn with
    ⟨-, hl⟩ | ⟨-, g, -, hl⟩ | ⟨-, -, v, -, hl⟩ | ⟨-, -, -, hl⟩
  · cases h.symm.trans hl
  · cases h.symm.trans hl
  · cases h.symm.trans hl
  · cases h.symm.trans hl
    rfl

/-! ### Composed addresses (44_translator.md R147) -/

theorem Cfg.offset_lt {c : Cfg} (hc : c.Valid) (va : Nat) : c.offset va < c.s := by
  obtain ⟨hs, -⟩ := hc.arith
  rw [Cfg.offset_eq_mod, hs]
  exact Nat.mod_lt _ (Nat.two_pow_pos _)

/-- Under a legal configuration the OR of COMPOSE is the sum `frame * S + offset`. -/
theorem Cfg.compose_eq_mul_add {c : Cfg} (hc : c.Valid) {frame offset : Nat} (ho : offset < c.s) :
    c.compose frame offset = frame * c.s + offset := by
  obtain ⟨hs, -⟩ := hc.arith
  rw [Cfg.compose_eq_add c (hs ▸ ho), ← hs]

theorem Cfg.compose_lt {c : Cfg} (hc : c.Valid) {frame offset : Nat} (hf : frame < c.frameCount)
    (ho : offset < c.s) : c.compose frame offset < c.p := by
  obtain ⟨-, -, -, -, hp⟩ := hc.arith
  calc c.compose frame offset
      = frame * c.s + offset := Cfg.compose_eq_mul_add hc ho
    _ < (frame + 1) * c.s := by rw [Nat.succ_mul]; exact Nat.add_lt_add_left ho _
    _ ≤ c.frameCount * c.s := Nat.mul_le_mul_right _ hf
    _ = c.p := hp

theorem Cfg.compose_mod {c : Cfg} (hc : c.Valid) {frame offset : Nat} (ho : offset < c.s) :
    c.compose frame offset % c.s = offset := by
  rw [Cfg.compose_eq_mul_add hc ho, Nat.mul_add_mod', Nat.mod_eq_of_lt ho]

/-! ### A TRANSLATE that ends OK (44_translator.md R150, R151) -/

/-- A TRANSLATE that ends OK looked up a valid page, installed the block after that lookup, and
answered its frame composed with the address's own offset. -/
theorem exec_translate_ok {s t : State} {b : Block} {va : Nat} {r : Response}
    (hb : s.block = some b) (h : exec (.translate va) s = .next t)
    (hr : t.responses = r :: s.responses) (hok : r.status = .ok) :
    b.cfg.vpn va < b.cfg.pageCount ∧ ∃ b' f, b.lookup s.params (b.cfg.vpn va) = (b', .ok f) ∧
      r = .ofNat (b.cfg.compose f (b.cfg.offset va)) ∧ t = (s.withBlock b').respond r := by
  have hexec : execTranslate va s = .next t := h
  rcases execTranslate_cases va hb with ⟨-, he⟩ | ⟨hlt, b', f, hl, he⟩ | ⟨-, b', e, hl, he⟩
  · cases he.symm.trans hexec
    obtain ⟨rfl, -⟩ := List.cons.inj hr
    cases hok
  · cases he.symm.trans hexec
    obtain ⟨rfl, -⟩ := List.cons.inj hr
    exact ⟨hlt, b', f, hl, rfl, rfl⟩
  · cases he.symm.trans hexec
    obtain ⟨rfl, -⟩ := List.cons.inj hr
    cases Block.lookup_error_eq_noVictim hl
    cases hok

end Sys2Proof.Machine
end

section
/-!
The statement of 20_memory.md, settled.
-/

namespace Sys2Proof.Machine

/-- Settles O32: the answer composes the frame of a lookup, which is in range on every path, with
the offset of the virtual address. -/
theorem physicalAddressInRange : Obligations.PhysicalAddressInRange := by
  intro s t b va r hb hc h hr hok
  obtain ⟨-, b', f, hl, rfl, -⟩ := exec_translate_ok hb h hr hok
  have hf : f < b.cfg.frameCount := Block.lookup_frame_lt hc hl
  have ho : b.cfg.offset va < b.cfg.s := Cfg.offset_lt hc va
  obtain ⟨hs, -⟩ := hc.arith
  refine ⟨f, b.cfg.offset va, hf, ho, rfl, Cfg.compose_lt hc hf ho, ?_⟩
  calc b.cfg.compose f (b.cfg.offset va) % b.cfg.s
      = b.cfg.offset va := Cfg.compose_mod hc ho
    _ = va % b.cfg.s := by rw [Cfg.offset_eq_mod, ← hs]

end Sys2Proof.Machine
end

section
/-!
SUPPORT. Facts that the statements of 30_encoding.md share: what a step does with a decoded and with
an unassigned command, what the host gets of an internal operation, and which operations answer
without a warning.
-/

namespace Sys2Proof

/-! ### The codes outside classes H and P (30_encoding.md R93, R94) -/

/-- No row of the decoder's table holds a code from 0x0E on outside 0x10 to 0x12. -/
theorem decode_of_unassigned {c : Command}
    (h : c.op.toNat = 0x0E ∨ c.op.toNat = 0x0F ∨ 0x13 ≤ c.op.toNat) :
    decode c = .error (.unassigned c.op) := by
  unfold decode
  split
  case h_18 => rfl
  all_goals omega

theorem decode_of_internal {c : Command} (h : c.op = 0x10#5 ∨ c.op = 0x11#5 ∨ c.op = 0x12#5) :
    ∃ i, decode c = .ok i ∧ i.opClass = .internal := by
  rcases h with hop | hop | hop
  · exact ⟨.ptbuild c.arg0 c.arg1 (PageMap.canon c.map), by simp [decode, hop], rfl⟩
  · exact ⟨.ptset c.arg0 c.arg1, by simp [decode, hop], rfl⟩
  · exact ⟨.evict c.arg0 c.arg1, by simp [decode, hop], rfl⟩

end Sys2Proof

namespace Sys2Proof.Machine

/-! ### The step on a command (00_scope.md R13, 60_exceptions.md R189) -/

theorem step_of_decode_unassigned {s : State} {c : Command} {rest : List Command} {op : OpCode}
    (hin : s.inbox = c :: rest) (hdec : decode c = .error (.unassigned op)) :
    step s = .next ((s.accept rest).raise (.illegalOp op)) := by
  simp [step, hin, runCommand, hdec]

theorem step_of_decode_ok {s : State} {c : Command} {rest : List Command} {i : Instr}
    (hin : s.inbox = c :: rest) (hdec : decode c = .ok i)
    (hport : tooWideForPort s.params i = none) : step s = exec i (s.accept rest) := by
  simp [step, hin, runCommand, hdec, runDecoded, hport]

/-! ### Internal operations (30_encoding.md R94) -/

/-- The operands of an internal operation are no addresses, so every port carries them. -/
theorem tooWideForPort_of_internal {i : Instr} (pr : Config.Params) (hi : i.opClass = .internal) :
    tooWideForPort pr i = none := by
  cases i with
  | ptbuild pageCount entryBits init => rfl
  | ptset page entry => rfl
  | evict victim incoming => rfl
  | _ => cases hi

theorem exec_internal_of_host {i : Instr} {s : State} (hs : s.issuer = .host)
    (hi : i.opClass = .internal) : exec i s = .next (s.raise (.illegalOp i.opcode)) := by
  cases i with
  | ptbuild pageCount entryBits init => exact State.internal_host hs
  | ptset page entry => exact State.internal_host hs
  | evict victim incoming => exact State.internal_host hs
  | _ => cases hi

/-! ### Results without a warning (30_encoding.md R92) -/

/-- Whatever response the result `o` of an operation run from `s` gives, its warning bit is 0. -/
def GivesNoWarning (s : State) (o : Result) : Prop :=
  ∀ t r, o = .next t → t.responses = r :: s.responses → r.warn = false

theorem givesNoWarning_respond {s s' : State} {r : Response} (hr : r.warn = false) :
    GivesNoWarning s (.next (s'.respond r)) := by
  intro t r' ht hresp
  cases ht
  obtain ⟨rfl, -⟩ := List.cons.inj hresp
  exact hr

theorem givesNoWarning_raise (s s' : State) (e : OpError) : GivesNoWarning s (.next (s'.raise e)) :=
  givesNoWarning_respond rfl

theorem givesNoWarning_refused (s : State) (why : Refusal) : GivesNoWarning s (.refused why) := by
  intro t r ht
  cases ht

/-- `whenConfigured` adds only an error, and no error carries a warning. -/
theorem givesNoWarning_whenConfigured {s : State} {k : Block → Result}
    (hk : ∀ b, GivesNoWarning s (k b)) : GivesNoWarning s (s.whenConfigured k) := by
  cases hb : s.block with
  | none =>
    rw [State.whenConfigured_none hb]
    exact givesNoWarning_raise s s _
  | some b =>
    rw [State.whenConfigured_some hb]
    exact hk b

theorem givesNoWarning_probe {s : State} {k : Block → Except OpError Response}
    (hk : ∀ b r, k b = .ok r → r.warn = false) : GivesNoWarning s (s.probe k) := by
  refine givesNoWarning_whenConfigured fun b => ?_
  cases hr : k b with
  | ok r => exact givesNoWarning_respond (hk b r hr)
  | error e => exact givesNoWarning_raise s s e

/-- A probe that answers every block. -/
theorem givesNoWarning_probe_ok {s : State} {answer : Block → Response}
    (hanswer : ∀ b, (answer b).warn = false) :
    GivesNoWarning s (s.probe fun b => .ok (answer b)) := by
  refine givesNoWarning_probe fun b r hr => ?_
  cases hr
  exact hanswer b

/-- A probe whose answer is a computed value put into a response form that has no warning. -/
theorem givesNoWarning_probe_map {α : Type} {s : State} {k : Block → Except OpError α}
    {form : α → Response} (hform : ∀ a, (form a).warn = false) :
    GivesNoWarning s (s.probe fun b => (k b).map form) := by
  refine givesNoWarning_probe fun b r hr => ?_
  cases hk : k b with
  | ok a =>
    rw [hk] at hr
    cases hr
    exact hform a
  | error e =>
    rw [hk] at hr
    cases hr

theorem execFmtbin_givesNoWarning (value width : Nat) (s : State) :
    GivesNoWarning s (execFmtbin value width s) := by
  refine givesNoWarning_whenConfigured fun b => ?_
  split
  · exact givesNoWarning_respond rfl
  · exact givesNoWarning_refused s _

theorem execSelvict_givesNoWarning (s : State) : GivesNoWarning s (execSelvict s) := by
  refine givesNoWarning_probe fun b r hr => ?_
  split at hr
  · cases hr
    rfl
  · cases hr

theorem execTranslate_givesNoWarning (va : Nat) (s : State) :
    GivesNoWarning s (execTranslate va s) := by
  cases hb : s.block with
  | none =>
    rw [execTranslate, State.whenConfigured_none hb]
    exact givesNoWarning_raise s s _
  | some b =>
    rcases execTranslate_cases va hb with ⟨-, he⟩ | ⟨-, b', f, -, he⟩ | ⟨-, b', e, -, he⟩
    · exact he ▸ givesNoWarning_raise s s _
    · exact he ▸ givesNoWarning_respond rfl
    · exact he ▸ givesNoWarning_raise s _ e

theorem exec_internal_givesNoWarning {i : Instr} {s : State} (hs : s.issuer = .host)
    (hi : i.opClass = .internal) : GivesNoWarning s (exec i s) :=
  exec_internal_of_host hs hi ▸ givesNoWarning_raise s s _

/-- From the host's port every operation but CONSTRUCT answers without a warning. -/
theorem exec_givesNoWarning {i : Instr} {s : State} (hs : s.issuer = .host)
    (hi : ∀ v p sz init, i ≠ .construct v p sz init) : GivesNoWarning s (exec i s) := by
  cases i with
  | construct v p sz init => exact absurd rfl (hi v p sz init)
  | translate va => exact execTranslate_givesNoWarning va s
  | pack frame present => exact givesNoWarning_probe_ok fun _ => rfl
  | unpack entry => exact givesNoWarning_probe_ok fun _ => rfl
  | fmtbin value width => exact execFmtbin_givesNoWarning value width s
  | split va => exact givesNoWarning_probe_map fun _ => rfl
  | compose frame offset => exact givesNoWarning_probe_ok fun _ => rfl
  | ptget page => exact givesNoWarning_probe_map Response.ofNat_warn
  | findfree => exact givesNoWarning_probe_ok fun b => Response.ofOption_warn b.findFree
  | selvict => exact execSelvict_givesNoWarning s
  | rdcnt page => exact givesNoWarning_probe_map Response.ofNat_warn
  | rdfs frame => exact givesNoWarning_probe_map Response.ofNat_warn
  | rdreg sel => exact givesNoWarning_probe_map Response.ofNat_warn
  | snapshot => exact givesNoWarning_probe_ok fun _ => rfl
  | ptbuild pageCount entryBits init => exact exec_internal_givesNoWarning hs rfl
  | ptset page entry => exact exec_internal_givesNoWarning hs rfl
  | evict victim incoming => exact exec_internal_givesNoWarning hs rfl

/-- A CONSTRUCT that warns has committed: its ConfigErrors carry no warning. -/
theorem execConstruct_status_of_warn {v p sz : Nat} {init : PageMap} {s t : State} {r : Response}
    (h : execConstruct v p sz init s = .next t) (hresp : t.responses = r :: s.responses)
    (hwarn : r.warn = true) : r.status = .ok := by
  rcases execConstruct_cases v p sz init s with ⟨e, -, he⟩ | ⟨-, -, -, he⟩
  · cases he.symm.trans h
    obtain ⟨rfl, -⟩ := List.cons.inj hresp
    cases hwarn
  · cases he.symm.trans h
    obtain ⟨rfl, -⟩ := List.cons.inj hresp
    exact Response.ofWarning_status _

end Sys2Proof.Machine
end

section
/-!
The statements of 30_encoding.md, settled.
-/

namespace Sys2Proof.Machine

/-- Settles O5: the decoder has no row for the code, and the step answers that before it looks at
the block. -/
theorem unassignedOpAnswersIllegal : Obligations.UnassignedOpAnswersIllegal := by
  intro s c rest hin hop
  have hcode : c.op.toNat = 0x0E ∨ c.op.toNat = 0x0F ∨ 0x13 ≤ c.op.toNat := by
    rcases hop with hop | hop | ⟨hop, -⟩
    · exact Or.inl (congrArg BitVec.toNat hop)
    · exact Or.inr (Or.inl (congrArg BitVec.toNat hop))
    · exact Or.inr (Or.inr hop)
  exact step_of_decode_unassigned hin (decode_of_unassigned hcode)

/-- Settles O6: the code is decoded, and the operation, whose issuer in a step is the host, raises
the error of an unassigned one. -/
theorem internalOpRefusedAtPort : Obligations.InternalOpRefusedAtPort := by
  intro s c rest hin hop
  obtain ⟨i, hdec, hclass⟩ := decode_of_internal hop
  calc step s
      = exec i (s.accept rest) :=
        step_of_decode_ok hin hdec (tooWideForPort_of_internal s.params hclass)
    _ = .next ((s.accept rest).raise (.illegalOp i.opcode)) :=
        exec_internal_of_host (State.accept_issuer s rest) hclass
    _ = .next ((s.accept rest).raise (.illegalOp c.op)) := by rw [opcode_of_decode hdec]

/-- Settles O49: a warning can only come of a CONSTRUCT, and there only of one that committed. -/
theorem warnOnlyFromConstruct : Obligations.WarnOnlyFromConstruct := by
  intro s t i r hs h hresp hwarn
  by_cases hi : ∃ v p sz init, i = .construct v p sz init
  · refine ⟨?_, hi⟩
    obtain ⟨v, p, sz, init, rfl⟩ := hi
    exact execConstruct_status_of_warn h hresp hwarn
  · have hsilent : GivesNoWarning s (exec i s) :=
      exec_givesNoWarning hs fun v p sz init hc => hi ⟨v, p, sz, init, hc⟩
    simp [hsilent t r h hresp] at hwarn

end Sys2Proof.Machine
end

section
/-!
SUPPORT. Facts that the statements of 40_codec.md share: the entry as a field of `frame_bits` + 1
bits below the reserved ones, the string of FMTBIN read from its least significant end, and what a step
that is refused met.
-/

namespace Sys2Proof

/-! ### The Boolean operand (30_encoding.md R89) -/

theorem decodeBool_eq_none_iff {n : Nat} : decodeBool n = none ↔ 2 ≤ n := by
  match n with
  | 0 => simp [decodeBool]
  | 1 => simp [decodeBool]
  | n + 2 => simp [decodeBool]

theorem decodePack_eq_error {frame present : Nat} {e : DecodeError}
    (h : decodePack frame present = .error e) : e = .booleanNotOneBit present ∧ 2 ≤ present := by
  unfold decodePack at h
  split at h
  · cases h
  · next hnone => exact ⟨(Except.error.inj h).symm, decodeBool_eq_none_iff.1 hnone⟩

/-- PACK is the one operation whose decoding looks at an operand. -/
theorem le_of_decode_booleanNotOneBit {c : Command} {arg : Nat}
    (h : decode c = .error (.booleanNotOneBit arg)) : 2 ≤ arg := by
  unfold decode at h
  split at h
  case h_3 =>
    obtain ⟨harg, hle⟩ := decodePack_eq_error h
    cases harg
    exact hle
  all_goals cases h

end Sys2Proof

namespace Sys2Proof.Machine

/-! ### The entry's two fields (40_codec.md R110, R112) -/

theorem testBit_packBits_of_lt {fb k : Nat} (frame : Nat) (present : Bool) (hk : fb < k) :
    (packBits fb frame present).testBit k = false :=
  Nat.testBit_lt_two_pow
    (Nat.lt_of_lt_of_le (packBits_lt fb frame present) (Nat.pow_le_pow_right (by omega) hk))

/-- UNPACK reads no bit above the present bit. -/
theorem frameField_mod (fb e : Nat) : frameField fb (e % 2 ^ (fb + 1)) = frameField fb e := by
  simp only [frameField_eq_mod]
  exact Nat.mod_mod_of_dvd e (Nat.pow_dvd_pow 2 (Nat.le_succ fb))

theorem presentBit_mod (fb e : Nat) : presentBit fb (e % 2 ^ (fb + 1)) = presentBit fb e := by
  simp [presentBit_eq_testBit, Nat.testBit_mod_two_pow]

/-- Repacking what UNPACK reads keeps the two fields and clears every other bit. -/
theorem packBits_unpack (fb e : Nat) :
    packBits fb (frameField fb e) (presentBit fb e) = e &&& (lowMask fb ||| 2 ^ fb) := by
  have hframe : frameField fb e &&& lowMask fb = e &&& lowMask fb := by
    rw [frameField, Nat.and_assoc, Nat.and_self]
  have hpresent : (if presentBit fb e then 2 ^ fb else 0) = e &&& 2 ^ fb := by
    rw [presentBit_eq_testBit, Nat.and_two_pow]
    cases e.testBit fb <;> simp
  rw [packBits, hframe, hpresent, Nat.and_or_distrib_left]

theorem Cfg.present_pack (c : Cfg) (frame : Nat) (present : Bool) :
    c.present (c.pack frame present) = present :=
  presentBit_packBits c.frameBits frame present

theorem Cfg.frame_pack (c : Cfg) (frame : Nat) (present : Bool) :
    c.frame (c.pack frame present) = frame &&& c.frameMask := by
  rw [Cfg.frameMask, lowMask_and]
  exact frameField_packBits c.frameBits frame present

theorem Cfg.frame_pack_of_lt {c : Cfg} (hc : c.Valid) {frame : Nat} (present : Bool)
    (hf : frame < c.frameCount) : c.frame (c.pack frame present) = frame := by
  obtain ⟨-, hcount, -⟩ := hc.arith
  rw [Cfg.frame_pack, Cfg.frameMask, lowMask_and, Nat.mod_eq_of_lt (hcount ▸ hf)]

/-! ### PACK and UNPACK on a configured block -/

theorem boolResult_decide (p : Prop) [Decidable p] :
    boolResult (decide p) = if p then 1 else 0 := by
  by_cases h : p
  · simp [boolResult, h]
  · simp [boolResult, h]

theorem exec_pack {s : State} {b : Block} (frame : Nat) (present : Bool) (hb : s.block = some b) :
    exec (.pack frame present) s = .next (s.respond (.ofNat (b.cfg.pack frame present))) := by
  rw [exec, execPack]
  exact State.probe_ok hb rfl

theorem exec_unpack {s : State} {b : Block} (entry : Nat) (hb : s.block = some b) :
    exec (.unpack entry) s =
      .next (s.respond (.ofPair (b.cfg.frame entry) (boolResult (b.cfg.present entry)))) := by
  rw [exec, execUnpack]
  exact State.probe_ok hb rfl

/-- UNPACK answers as on the entry cut above its present bit. -/
theorem exec_unpack_mod {s : State} {b : Block} (entry : Nat) (hb : s.block = some b) :
    exec (.unpack entry) s = exec (.unpack (entry % 2 ^ (b.cfg.frameBits + 1))) s := by
  simp only [exec_unpack _ hb, Cfg.frame, Cfg.present, frameField_mod, presentBit_mod]

/-! ### The string of FMTBIN (40_codec.md R114) -/

theorem fmtbinDomain_eq_false_iff {value width : Nat} :
    fmtbinDomain value width = false ↔ width = 0 ∨ 2 ^ width ≤ value := by
  simp only [fmtbinDomain, decide_eq_false_iff_not]
  omega

theorem exec_fmtbin {s : State} {b : Block} {value width : Nat} (hb : s.block = some b)
    (hd : fmtbinDomain value width = true) :
    exec (.fmtbin value width) s =
      .next (s.respond (.ofList (.chars (binaryGroups s.params.sep value width)))) := by
  simp [exec, execFmtbin, hb, hd]

theorem exec_fmtbin_refused {s : State} {b : Block} {value width : Nat} (hb : s.block = some b)
    (hd : fmtbinDomain value width = false) :
    exec (.fmtbin value width) s = .refused (.fmtbinOutsideDomain value width) := by
  simp [exec, execFmtbin, hb, hd]

theorem binaryGroups_succ (sep : Char) (value i : Nat) :
    binaryGroups sep value (i + 1) = digitChar value i ::
      (if 0 < i ∧ i % 4 = 0 then sep :: binaryGroups sep value i else binaryGroups sep value i) :=
  rfl

theorem binaryGroups_length (sep : Char) (value n : Nat) :
    (binaryGroups sep value n).length = n + (n + 3) / 4 - 1 := by
  induction n with
  | zero => rfl
  | succ i ih =>
    rw [binaryGroups_succ]
    split <;> simp only [List.length_cons, ih] <;> omega

theorem binaryGroups_suffix_succ (sep : Char) (value n : Nat) :
    binaryGroups sep value n <:+ binaryGroups sep value (n + 1) := by
  rw [binaryGroups_succ]
  split
  · exact (List.suffix_cons _ _).trans (List.suffix_cons _ _)
  · exact List.suffix_cons _ _

/-- A shorter string is the end of a longer one. -/
theorem binaryGroups_suffix (sep : Char) (value : Nat) {m n : Nat} (h : m ≤ n) :
    binaryGroups sep value m <:+ binaryGroups sep value n := by
  induction n, h using Nat.le_induction with
  | base => exact List.suffix_rfl
  | succ n _ ih => exact ih.trans (binaryGroups_suffix_succ sep value n)

/-- Read from its least significant end, the string has at `i + i / 4` the first character of the
string of `i + 1` digits, and below it the characters that follow that one. -/
theorem binaryGroups_reverse_getElem? (sep : Char) (value : Nat) {i n k : Nat} (hi : i < n)
    (hk : k ≤ i + i / 4) :
    (binaryGroups sep value n).reverse[i + i / 4 - k]? = (binaryGroups sep value (i + 1))[k]? := by
  have hlen : (binaryGroups sep value (i + 1)).length = i + i / 4 + 1 := by
    rw [binaryGroups_length]
    omega
  obtain ⟨front, hfront⟩ := binaryGroups_suffix sep value (m := i + 1) hi
  rw [← hfront, List.reverse_append,
    List.getElem?_append_left (by rw [List.length_reverse, hlen]; omega),
    List.getElem?_reverse (by omega), hlen]
  congr 1
  omega

theorem binaryGroups_digit (sep : Char) (value : Nat) {i n : Nat} (hi : i < n) :
    (binaryGroups sep value n).reverse[i + i / 4]? = some (digitChar value i) := by
  have h := binaryGroups_reverse_getElem? sep value hi (Nat.zero_le _)
  rwa [Nat.sub_zero, binaryGroups_succ, List.getElem?_cons_zero] at h

theorem binaryGroups_separator (sep : Char) (value : Nat) {i n : Nat} (hi : i < n) (hpos : 0 < i)
    (hmul : i % 4 = 0) : (binaryGroups sep value n).reverse[i + i / 4 - 1]? = some sep := by
  rw [binaryGroups_reverse_getElem? sep value hi (by omega), binaryGroups_succ,
    if_pos ⟨hpos, hmul⟩]
  rfl

/-! ### What a refused step met -/

theorem fits_eq_false_iff {w : Option Nat} {n : Nat} :
    Config.fits w n = false ↔ ∃ k, w = some k ∧ 2 ^ k ≤ n := by
  cases w <;> simp [Config.fits]

/-- Only an address is too wide, and only for a finite port (assumption log 7). -/
theorem tooWideForPort_eq_some {pr : Config.Params} {i : Instr} {va : Nat}
    (h : tooWideForPort pr i = some va) : ∃ w, pr.vaBitsPort = some w ∧ 2 ^ w ≤ va := by
  refine fits_eq_false_iff.1 ?_
  cases i with
  | translate va' | split va' =>
    obtain ⟨hfits, rfl⟩ : Config.fits pr.vaBitsPort va' = false ∧ va' = va := by
      simpa [tooWideForPort] using h
    exact hfits
  | _ => cases h

/-- From the host's port FMTBIN is the one operation that can be refused, outside its domain. -/
theorem exec_refused {i : Instr} {s : State} {why : Refusal} (hs : s.issuer = .host)
    (h : exec i s = .refused why) :
    ∃ value width, why = .fmtbinOutsideDomain value width ∧ fmtbinDomain value width = false := by
  by_cases hi : i.opClass = .entryPoint
  · cases i with
    | construct v p sz init =>
      have hexec : execConstruct v p sz init s = .refused why := h
      rcases execConstruct_cases v p sz init s with ⟨e, -, he⟩ | ⟨-, -, -, he⟩
      · cases he.symm.trans hexec
      · cases he.symm.trans hexec
    | translate va =>
      have hexec : execTranslate va s = .refused why := h
      obtain ⟨r, he | ⟨b, -, -, he⟩⟩ := execTranslate_block va s
      · cases he.symm.trans hexec
      · cases he.symm.trans hexec
    | _ => cases hi
  · rcases exec_only_responds hs hi with ⟨r, he⟩ | ⟨value, width, -, hd, he⟩
    · cases he.symm.trans h
    · cases he.symm.trans h
      exact ⟨value, width, rfl, hd⟩

/-- A refused step took a command whose Boolean operand is not one bit, whose address the port
cannot carry, or whose operation has no meaning. -/
theorem step_refused_cases {s : State} {why : Refusal} (h : step s = .refused why) :
    ∃ c rest, s.inbox = c :: rest ∧
      ((∃ arg, decode c = .error (.booleanNotOneBit arg) ∧ why = .booleanNotOneBit arg) ∨
        ∃ i, decode c = .ok i ∧
          ((∃ va, tooWideForPort s.params i = some va ∧ why = .addressWiderThanPort va) ∨
            exec i (s.accept rest) = .refused why)) := by
  unfold step at h
  split at h
  · cases h
  · next c rest hin =>
    refine ⟨c, rest, hin, ?_⟩
    unfold runCommand at h
    split at h
    · cases h
    · next arg hdec => exact Or.inl ⟨arg, hdec, by cases h; rfl⟩
    · next i hdec =>
      refine Or.inr ⟨i, hdec, ?_⟩
      unfold runDecoded at h
      split at h
      · next va hwide => exact Or.inl ⟨va, hwide, by cases h; rfl⟩
      · exact Or.inr h

end Sys2Proof.Machine
end

section
/-!
The statements of 40_codec.md, settled.
-/

namespace Sys2Proof.Machine

/-- Settles O14: the probe answers `Cfg.pack`, which is the formula of R110, and its range keeps the
bits above the present bit clear. -/
theorem packBuildsEntry : Obligations.PackBuildsEntry := by
  intro s b frame present hb
  refine ⟨b.cfg.pack frame present, rfl, exec_pack frame present hb, packBits_lt _ _ _, ?_,
    fun k hk => testBit_packBits_of_lt frame present hk, fun c hop harg0 harg1 => ?_⟩
  · exact Nat.pow_le_pow_right (by omega) (by rw [Cfg.entryBits, controlBits]; omega)
  · cases present <;> simp [decode, decodePack, decodeBool, hop, harg0, harg1]

/-- Settles O15: the probe answers the two fields, and entries that agree below the reserved bits
are cut to the same one. -/
theorem unpackReadsFields : Obligations.UnpackReadsFields := by
  intro s b entry hb
  refine ⟨?_, fun entry' hmod => ?_, fun c hop harg => ?_⟩
  · have hpresent : boolResult (b.cfg.present entry) =
        if entry &&& 2 ^ b.cfg.frameBits ≠ 0 then 1 else 0 :=
      boolResult_decide _
    rw [exec_unpack entry hb, hpresent]
    rfl
  · rw [exec_unpack_mod entry' hb, exec_unpack_mod entry hb, hmod]
  · simp [decode, hop, harg]

/-- Settles O16: each law is a law of the two fields; injectivity is the round trip on both
sides. -/
theorem packUnpackLaws : Obligations.PackUnpackLaws := by
  intro c hc
  refine ⟨fun frame present hf => ⟨c.present_pack frame present, c.frame_pack_of_lt hc present hf⟩,
    fun frame present => ⟨c.present_pack frame present, c.frame_pack frame present⟩,
    fun entry => packBits_unpack c.frameBits entry, fun f g x y hf hg heq => ⟨?_, ?_⟩⟩
  · calc f = c.frame (c.pack f x) := (c.frame_pack_of_lt hc x hf).symm
      _ = c.frame (c.pack g y) := by rw [heq]
      _ = g := c.frame_pack_of_lt hc y hg
  · calc x = c.present (c.pack f x) := (c.present_pack f x).symm
      _ = c.present (c.pack g y) := by rw [heq]
      _ = y := c.present_pack g y

/-- Settles O17: digit `i` and the separator before it head the string of `i + 1` digits, which is
the end of the whole string. -/
theorem fmtbinGroupsDigits : Obligations.FmtbinGroupsDigits := by
  intro s b value width hb
  refine ⟨fun hwidth hvalue => ?_, fun hout => ?_, fun c hop harg0 harg1 => ?_⟩
  · exact ⟨binaryGroups s.params.sep value width,
      exec_fmtbin hb (decide_eq_true ⟨hwidth, hvalue⟩),
      binaryGroups_length _ _ _,
      fun i hi => binaryGroups_digit _ _ hi,
      fun i hpos hi hmul => binaryGroups_separator _ _ hi hpos hmul⟩
  · exact exec_fmtbin_refused hb (fmtbinDomain_eq_false_iff.2 hout)
  · simp [decode, hop, harg0, harg1]

/-- Settles O55: the three reasons a refused step can have, each traced to the operand that caused
it; no step faults because there is no fault. -/
theorem refusalsAreOnlyThoseOfTheLog : Obligations.RefusalsAreOnlyThoseOfTheLog := by
  refine ⟨fun _ f => (nomatch f), fun s why h => ?_⟩
  obtain ⟨c, rest, -, ⟨arg, hdec, rfl⟩ | ⟨i, -, ⟨va, hwide, rfl⟩ | hexec⟩⟩ := step_refused_cases h
  · exact Or.inr (Or.inl ⟨arg, rfl, le_of_decode_booleanNotOneBit hdec⟩)
  · obtain ⟨w, hw, hle⟩ := tooWideForPort_eq_some hwide
    exact Or.inr (Or.inr ⟨va, w, rfl, hw, hle⟩)
  · obtain ⟨value, width, rfl, hd⟩ := exec_refused (State.accept_issuer s rest) hexec
    exact Or.inl ⟨value, width, rfl, fmtbinDomain_eq_false_iff.1 hd⟩

end Sys2Proof.Machine
end

section
/-!
SUPPORT. Facts that the statements of 41_page_table.md share: what PTGET, PTSET and PTBUILD answer,
which violation PTBUILD reports, the slots of the table it builds, and when it warns.
-/

namespace Sys2Proof.Machine

/-! ### PTGET on a configured block (41_page_table.md R123) -/

theorem exec_ptget_of_lt {s : State} {b : Block} {page : Nat} (hb : s.block = some b)
    (hp : page < b.cfg.pageCount) :
    exec (.ptget page) s = .next (s.respond (.ofNat (b.entry page))) := by
  rw [exec, execPtget]
  exact State.probe_ok hb (by simp [Block.ptGet, Nat.not_le.2 hp, Except.map])

theorem exec_ptget_of_le {s : State} {b : Block} {page : Nat} (hb : s.block = some b)
    (hp : b.cfg.pageCount ≤ page) :
    exec (.ptget page) s = .next (s.raise (.outOfRange page b.cfg.pageCount)) := by
  rw [exec, execPtget]
  exact State.probe_error hb (by simp [Block.ptGet, hp, Except.map])

/-! ### PTSET invoked by the block (41_page_table.md R125) -/

theorem Block.ptSetReady_iff {b : Block} {page entry : Nat} :
    b.ptSetReady page entry = true ↔ page < b.cfg.pageCount ∧ entry < 2 ^ b.cfg.entryBits := by
  simp [Block.ptSetReady]

theorem exec_ptset_of_ready {s : State} {b : Block} {page entry : Nat} (hb : s.block = some b)
    (hs : s.issuer = .block) (hready : b.ptSetReady page entry = true) :
    exec (.ptset page entry) s = .next ((s.withBlock (b.ptSet page entry)).respond {}) := by
  simp [exec, execPtset, hs, hb, hready]

theorem Block.entry_ptSet {b : Block} {page : Nat} (hp : page < b.pt.length) (entry q : Nat) :
    (b.ptSet page entry).entry q = if q = page then entry else b.entry q := by
  by_cases hq : q = page
  · rw [if_pos hq, hq]
    exact Block.entry_setEntry_self entry hp
  · rw [if_neg hq]
    exact Block.entry_setEntry_ne b entry (Ne.symm hq)

/-! ### PTBUILD invoked by the block (41_page_table.md R120) -/

theorem exec_ptbuild_error {s : State} {pc eb : Nat} {init : PageMap} {e : OpError}
    (hs : s.issuer = .block) (hpc : 1 ≤ pc) (heb : 5 ≤ eb)
    (he : entryViolation pc eb init = some e) :
    exec (.ptbuild pc eb init) s = .next (s.raise e) := by
  simp [exec, execPtbuild, hs, hpc, heb, controlBits, ptBuild, he]

/-- An OK response that may warn, field by field. -/
theorem Response.ofWarning_withList (w : Option Info) (l : Listing) :
    { Response.ofWarning w with list := l } =
      { warn := w.isSome, info := w.getD Info.idle, list := l } := by
  cases w <;> rfl

theorem exec_ptbuild_ok {s : State} {pc eb : Nat} {init : PageMap} (hs : s.issuer = .block)
    (hpc : 1 ≤ pc) (heb : 5 ≤ eb) (hpass : entryViolation pc eb init = none) :
    exec (.ptbuild pc eb init) s = .next (s.respond
      { warn := (duplicateClaim (eb - 5) (overlay pc init)).isSome,
        info := (duplicateClaim (eb - 5) (overlay pc init)).getD Info.idle,
        list := .table (overlay pc init) }) := by
  rw [← Response.ofWarning_withList]
  simp [exec, execPtbuild, hs, hpc, heb, controlBits, ptBuild, hpass]

/-- Entries that pass the checks do not hide the first one that does not. -/
theorem entryViolation_append {pc eb : Nat} {before : PageMap} (rest : PageMap)
    (h : ∀ pe ∈ before, pe.1 < pc ∧ pe.2 < 2 ^ eb) :
    entryViolation pc eb (before ++ rest) = entryViolation pc eb rest := by
  induction before with
  | nil => rfl
  | cons pe before ih =>
    obtain ⟨⟨hp, he⟩, hbefore⟩ := List.forall_mem_cons.1 h
    simp [entryViolation, Nat.not_le.2 hp, Nat.not_le.2 he, ih hbefore]

theorem overlay_getElem?_of_mem {pc q e : Nat} {m : PageMap} (hm : m.Ascending)
    (hqe : (q, e) ∈ m) (hq : q < pc) : (overlay pc m)[q]? = some e := by
  rw [← overlay_getD_of_mem hm hqe hq]
  simp [hq]

theorem overlay_getElem?_of_not_mem {pc q : Nat} {m : PageMap} (hm : ∀ pe ∈ m, pe.1 ≠ q)
    (hq : q < pc) : (overlay pc m)[q]? = some 0 := by
  rw [← overlay_getD_of_not_mem (pc := pc) hm]
  simp [hq]

/-! ### The warning (41_page_table.md R121) -/

/-- A frame has a payload exactly when two pages claim it. -/
theorem claimPayload_isSome_iff {fb : Nat} {t : List Nat} {f : Nat} :
    (claimPayload fb t f).isSome = true ↔
      ∃ p q, p ∈ claimants fb t f ∧ q ∈ claimants fb t f ∧ p ≠ q := by
  constructor
  · intro h
    obtain ⟨i, hi⟩ := Option.isSome_iff_exists.1 h
    obtain ⟨p1, p2, rest, hc, -⟩ := claimPayload_eq_some hi
    have hlt : p1 < p2 :=
      List.rel_of_pairwise_cons (hc ▸ claimants_sorted fb t f) List.mem_cons_self
    exact ⟨p1, p2, by simp [hc], by simp [hc], Nat.ne_of_lt hlt⟩
  · rintro ⟨p, q, hp, hq, hne⟩
    unfold claimPayload
    match hc : claimants fb t f with
    | [] => simp [hc] at hp
    | [r] =>
      rw [hc, List.mem_singleton] at hp hq
      exact absurd (hp.trans hq.symm) hne
    | _ :: _ :: _ => rfl

/-- PTBUILD warns exactly when two present pages have the same frame; every frame field is below
`2 ^ fb`, so the search over the frames misses none. -/
theorem duplicateClaim_isSome_iff {fb : Nat} {t : List Nat} :
    (duplicateClaim fb t).isSome = true ↔
      ∃ p q, p < t.length ∧ q < t.length ∧ p ≠ q ∧
        presentBit fb (t.getD p 0) = true ∧ presentBit fb (t.getD q 0) = true ∧
        frameField fb (t.getD p 0) = frameField fb (t.getD q 0) := by
  simp only [duplicateClaim, List.findSome?_isSome_iff, claimPayload_isSome_iff, mem_claimants,
    List.mem_range]
  constructor
  · rintro ⟨f, -, p, q, ⟨hp, hpp, hpf⟩, ⟨hq, hqp, hqf⟩, hne⟩
    exact ⟨p, q, hp, hq, hne, hpp, hqp, hpf.trans hqf.symm⟩
  · rintro ⟨p, q, hp, hq, hne, hpp, hqp, hf⟩
    exact ⟨_, frameField_lt fb (t.getD p 0), p, q, ⟨hp, hpp, rfl⟩, ⟨hq, hqp, hf.symm⟩, hne⟩

end Sys2Proof.Machine
end

section
/-!
The statements of 41_page_table.md, settled.
-/

namespace Sys2Proof.Machine

/-- Settles O18: the two sides of `page_count`. -/
theorem ptgetReadsSlot : Obligations.PtgetReadsSlot := by
  intro s b page hb
  refine ⟨fun hlt => ?_, fun hle => ?_, fun c hop harg => ?_⟩
  · exact exec_ptget_of_lt hb hlt
  · exact exec_ptget_of_le hb hle
  · simp [decode, hop, harg]

/-- Settles O19: the preconditions make `Block.ptSet` the next block, and a table of `page_count`
slots has the one written. -/
theorem ptsetWritesOneSlot : Obligations.PtsetWritesOneSlot := by
  intro s b page entry hb hs hp he
  refine ⟨rfl, exec_ptset_of_ready hb hs (Block.ptSetReady_iff.2 ⟨hp, he⟩), fun ⟨hpt, _⟩ q => ?_⟩
  exact Block.entry_ptSet (hpt ▸ hp) entry q

/-- Settles O21: the checks skip `before` and stop at its successor; when nothing stops them, the
table is `overlay` and the warning is `duplicateClaim`. -/
theorem ptbuildReturnsTable : Obligations.PtbuildReturnsTable := by
  intro s pageCount entryBits init hs hpc heb hasc
  refine ⟨rfl, fun before after q e hinit hbefore => ⟨fun hq => ?_, fun hq he => ?_⟩,
    fun hfit => ?_⟩
  · have hviolation : entryViolation pageCount entryBits init = some
        ⟨.configError, { subcode := 6, page := q, value := q, bound := pageCount }⟩ := by
      rw [hinit, entryViolation_append _ hbefore, entryViolation, if_pos hq]
    exact exec_ptbuild_error hs hpc heb hviolation
  · have hviolation : entryViolation pageCount entryBits init = some
        ⟨.configError, { subcode := 7, page := q, value := e, bound := 2 ^ entryBits }⟩ := by
      rw [hinit, entryViolation_append _ hbefore, entryViolation, if_neg (Nat.not_le.2 hq),
        if_pos he]
    exact exec_ptbuild_error hs hpc heb hviolation
  · have hpass : entryViolation pageCount entryBits init = none :=
      entryViolation_eq_none_iff.2 hfit
    refine ⟨_, _, _, exec_ptbuild_ok hs hpc heb hpass, overlay_length _ _, ?_, ?_, ?_⟩
    · exact fun pe hpe => overlay_getElem?_of_mem hasc hpe (hfit pe hpe).1
    · exact fun q hq hout => overlay_getElem?_of_not_mem hout hq
    · simpa only [overlay_length] using
        duplicateClaim_isSome_iff (fb := entryBits - 5) (t := overlay pageCount init)

end Sys2Proof.Machine
end

section
/-!
SUPPORT. Facts that the statements of 42_frame_allocator.md share: what FINDFREE answers, and that
no host operation but CONSTRUCT frees a frame of a block without a free one.
-/

namespace Sys2Proof.Machine

/-! ### FINDFREE on a configured block (42_frame_allocator.md R130) -/

theorem exec_findfree {s : State} {b : Block} (hb : s.block = some b) :
    exec .findfree s = .next (s.respond (.ofOption b.findFree)) := by
  rw [exec, execFindfree]
  exact State.probe_ok hb rfl

/-! ### Full frame sets (42_frame_allocator.md R130, corner case (e)) -/

theorem Block.findFree_congr {b b' : Block} (hcfg : b'.cfg = b.cfg) (hfs : b'.fs = b.fs) :
    b'.findFree = b.findFree := by
  rw [Block.findFree, Block.findFree, hcfg, hfs]

/-- However a lookup ends, it leaves the configuration: only CONSTRUCT writes it
(10_state.md R23). -/
theorem Block.lookup_cfg (b : Block) (pr : Config.Params) (vpn : Nat) :
    (b.lookup pr vpn).1.cfg = b.cfg := by
  rcases b.lookup_cases pr vpn with
    ⟨-, hl⟩ | ⟨-, f, -, hl⟩ | ⟨-, -, v, -, hl⟩ | ⟨-, -, -, hl⟩
  all_goals simp [hl]

/-- Without a free frame a lookup inserts none, and it removes none. -/
theorem Block.lookup_findFree_of_none {b : Block} (pr : Config.Params) (vpn : Nat)
    (h : b.findFree = none) : (b.lookup pr vpn).1.findFree = none := by
  rcases b.lookup_fs pr vpn with hfs | ⟨-, f, hf, -⟩
  · exact (Block.findFree_congr (b.lookup_cfg pr vpn) hfs).trans h
  · cases h.symm.trans hf

/-- A block without a free frame has none after any operation of the host but CONSTRUCT. -/
theorem exec_keeps_findFree_none {s t : State} {b : Block} {i : Instr} (hs : s.issuer = .host)
    (hb : s.block = some b) (hi : i.opcode ≠ 0x00#5) (h : exec i s = .next t)
    (hnone : b.findFree = none) : ∃ b', t.block = some b' ∧ b'.findFree = none := by
  rcases exec_block_cases hs hb hi h with ⟨ht, -⟩ | ⟨va, -, -, ht⟩
  · exact ⟨b, ht, hnone⟩
  · exact ⟨_, ht, Block.lookup_findFree_of_none s.params (b.cfg.vpn va) hnone⟩

end Sys2Proof.Machine
end

section
/-!
The statement of 42_frame_allocator.md R130, settled.
-/

namespace Sys2Proof.Machine

/-- Settles O22: FINDFREE answers `Block.findFree`, and that no frame is free is kept by every
operation that runs but CONSTRUCT. -/
theorem findfreeAnswersLowestFree : Obligations.FindfreeAnswersLowestFree := by
  intro s b hb
  refine ⟨fun f hf hfree hbelow => ?_, fun hfull => ?_, fun c hop => ?_⟩
  · have hsome : b.findFree = some f := Block.findFree_eq_some_iff.2 ⟨hf, hfree, hbelow⟩
    rw [exec_findfree hb, hsome, Response.ofOption]
  · have hnone : b.findFree = none := Block.findFree_eq_none_iff.2 hfull
    refine ⟨?_, fun i t hs hi h => ?_⟩
    · rw [exec_findfree hb, hnone, Response.ofOption]
    · obtain ⟨b', hb', hnone'⟩ := exec_keeps_findFree_none hs hb hi h hnone
      rw [exec_findfree hb', hnone', Response.ofOption]
  · simp [decode, hop]

end Sys2Proof.Machine
end

section
/-!
SUPPORT. Facts that the statements of 43_lfu.md share: the policy's order and its minimum, what
SELVICT and EVICT answer, and that a good block whose frames are all taken has a victim.
-/

namespace Sys2Proof.Machine

/-! ### The policy's order (43_lfu.md R136) -/

theorem Block.before_irrefl (b : Block) (p : Nat) : ¬ b.before p p := by
  rintro (hlt | ⟨-, hlt⟩)
  · exact Nat.lt_irrefl _ hlt
  · exact Nat.lt_irrefl _ hlt

theorem Block.before_trans {b : Block} {p q r : Nat} (hpq : b.before p q) (hqr : b.before q r) :
    b.before p r := by
  rcases hpq with hpq | ⟨hcount, hpq⟩
  · rcases hqr with hqr | ⟨hcount', -⟩
    · exact Or.inl (hpq.trans hqr)
    · exact Or.inl (hcount' ▸ hpq)
  · rcases hqr with hqr | ⟨hcount', hqr⟩
    · exact Or.inl (hcount ▸ hqr)
    · exact Or.inr ⟨hcount.trans hcount', hpq.trans hqr⟩

/-- Equal counts leave the decision to the page numbers, which differ. -/
theorem Block.before_total {b : Block} {p q : Nat} (hne : p ≠ q) : b.before p q ∨ b.before q p := by
  rcases Nat.lt_trichotomy (b.count p) (b.count q) with hlt | heq | hlt
  · exact Or.inl (Or.inl hlt)
  · exact (Nat.lt_or_gt_of_ne hne).imp (fun h => Or.inr ⟨heq, h⟩) fun h => Or.inr ⟨heq.symm, h⟩
  · exact Or.inr (Or.inl hlt)

/-- Page `v` is a minimum of the policy's order over the present pages. -/
def Block.LeastUsed (b : Block) (v : Nat) : Prop :=
  v < b.cfg.pageCount ∧ b.isPresent v = true ∧
    ∀ q, q < b.cfg.pageCount → b.isPresent q = true → q ≠ v → b.before v q

theorem Block.LeastUsed.unique {b : Block} {v w : Nat} (hv : b.LeastUsed v) (hw : b.LeastUsed w) :
    v = w := by
  obtain ⟨hvlt, hvp, hvmin⟩ := hv
  obtain ⟨hwlt, hwp, hwmin⟩ := hw
  refine Classical.byContradiction fun hne => ?_
  exact b.before_irrefl v (Block.before_trans (hvmin w hwlt hwp (Ne.symm hne)) (hwmin v hvlt hvp hne))

/-! ### SELVICT on a configured block (43_lfu.md R135) -/

/-- The scan finds a minimum whenever a page is present, and there is only one to find. -/
theorem Block.selVict_eq_some_iff {b : Block} {v : Nat} : b.selVict = some v ↔ b.LeastUsed v := by
  refine ⟨Block.selVict_spec, fun hv => ?_⟩
  cases hs : b.selVict with
  | none =>
    obtain ⟨hlt, hp, -⟩ := hv
    simp [Block.selVict_eq_none_iff.1 hs v hlt] at hp
  | some w => exact congrArg some (Block.LeastUsed.unique (Block.selVict_spec hs) hv)

theorem Block.exists_selVict_of_present {b : Block} {p : Nat} (hlt : p < b.cfg.pageCount)
    (hp : b.isPresent p = true) : ∃ v, b.selVict = some v := by
  refine Option.ne_none_iff_exists'.1 fun hnone => ?_
  simp [Block.selVict_eq_none_iff.1 hnone p hlt] at hp

theorem exec_selvict_of_leastUsed {s : State} {b : Block} {v : Nat} (hb : s.block = some b)
    (hv : b.LeastUsed v) : exec .selvict s = .next (s.respond (.ofNat v)) := by
  rw [exec, execSelvict]
  exact State.probe_ok hb (by rw [Block.selVict_eq_some_iff.2 hv])

theorem exec_selvict_of_none_present {s : State} {b : Block} (hb : s.block = some b)
    (habsent : ∀ q, q < b.cfg.pageCount → b.isPresent q = false) :
    exec .selvict s = .next (s.raise .noVictim) := by
  rw [exec, execSelvict]
  exact State.probe_error hb (by rw [Block.selVict_eq_none_iff.2 habsent])

/-! ### EVICT invoked by the block (43_lfu.md R138) -/

theorem Block.evictReady_iff {b : Block} {victim incoming : Nat} :
    b.evictReady victim incoming = true ↔
      victim < b.cfg.pageCount ∧ incoming < b.cfg.pageCount ∧
        b.isPresent victim = true ∧ b.isPresent incoming = false := by
  simp [Block.evictReady, and_assoc]

theorem exec_evict_of_ready {s : State} {b : Block} {victim incoming : Nat} (hb : s.block = some b)
    (hs : s.issuer = .block) (hready : b.evictReady victim incoming = true) :
    exec (.evict victim incoming) s =
      .next ((s.withBlock (b.evict victim incoming)).respond (.ofNat (b.frameOf victim))) := by
  simp [exec, execEvict, hs, hb, hready]

theorem Block.frameOf_lt_two_pow (b : Block) (p : Nat) : b.frameOf p < 2 ^ b.cfg.frameBits :=
  frameField_lt b.cfg.frameBits (b.entry p)

/-- Repacking a page's frame loses none of it and sets the present bit alone. -/
theorem Block.pack_frameOf (b : Block) (p : Nat) :
    b.cfg.pack (b.frameOf p) true = b.frameOf p + 2 ^ b.cfg.frameBits := by
  rw [Cfg.pack, packBits_eq_add, Nat.mod_eq_of_lt (b.frameOf_lt_two_pow p), if_pos rfl]

theorem Block.frame_pack_frameOf (b : Block) (p : Nat) :
    b.cfg.frame (b.cfg.pack (b.frameOf p) true) = b.frameOf p := by
  rw [Cfg.frame_pack, Cfg.frameMask, lowMask_and, Nat.mod_eq_of_lt (b.frameOf_lt_two_pow p)]

theorem Block.Shaped.evict {b : Block} (h : b.Shaped) (victim incoming : Nat) :
    (b.evict victim incoming).Shaped := by
  simpa [Block.Shaped] using h

/-! ### NoVictimError in TRANSLATE (43_lfu.md R137) -/

theorem Cfg.Valid.one_le_frameCount {c : Cfg} (hc : c.Valid) : 1 ≤ c.frameCount := by
  obtain ⟨-, hcount, -⟩ := hc.arith
  rw [hcount]
  exact Nat.one_le_two_pow

/-- When every frame is taken, frame 0 is, and it is the frame of a present page. -/
theorem Block.Good.exists_selVict {b : Block} {pr : Config.Params} (hb : b.Good pr)
    (hfull : b.findFree = none) : ∃ v, b.selVict = some v := by
  obtain ⟨hcfg, -, -, -, hexact, -⟩ := hb
  have hzero : 0 < b.cfg.frameCount := hcfg.one_le_frameCount
  obtain ⟨p, hlt, hp, -⟩ := (hexact 0 hzero).1 (Block.findFree_eq_none_iff.1 hfull 0 hzero)
  exact Block.exists_selVict_of_present hlt hp

/-- On a good block every lookup assigns a frame. -/
theorem Block.Good.lookup_ne_error {b b' : Block} {pr : Config.Params} (hb : b.Good pr)
    (vpn : Nat) (e : OpError) : b.lookup pr vpn ≠ (b', .error e) := by
  intro h
  rcases b.lookup_cases pr vpn with
    ⟨-, hl⟩ | ⟨-, f, -, hl⟩ | ⟨-, -, v, -, hl⟩ | ⟨-, hfull, hnone, -⟩
  · cases h.symm.trans hl
  · cases h.symm.trans hl
  · cases h.symm.trans hl
  · obtain ⟨v, hv⟩ := hb.exists_selVict hfull
    cases hnone.symm.trans hv

end Sys2Proof.Machine
end

section
/-!
The statements of 43_lfu.md R135 to R138, settled.
-/

namespace Sys2Proof.Machine

/-- Settles O24: the scan's answer is the minimum of the policy's order, and there is none exactly
when no page is present. -/
theorem selvictAnswersLeastUsed : Obligations.SelvictAnswersLeastUsed := by
  intro s b hb
  refine ⟨fun v hlt hp hmin => ?_, fun habsent => ?_, fun c hop => ?_⟩
  · exact exec_selvict_of_leastUsed hb ⟨hlt, hp, hmin⟩
  · exact exec_selvict_of_none_present hb habsent
  · simp [decode, hop]

/-- Settles O25: SELVICT's scan finds the minimum, which is unique because the order is strict. -/
theorem policyOrderHasUniqueMinimum : Obligations.PolicyOrderHasUniqueMinimum := by
  intro b
  refine ⟨b.before_irrefl, fun _ _ _ => Block.before_trans, fun _ _ => Block.before_total,
    fun s hb ⟨p, hlt, hp⟩ => ?_⟩
  obtain ⟨v, hs⟩ := Block.exists_selVict_of_present hlt hp
  have hv : b.LeastUsed v := Block.selVict_eq_some_iff.1 hs
  exact ⟨v, hv, exec_selvict_of_leastUsed hb hv, fun v' hv' => Block.LeastUsed.unique hv' hv⟩

/-- Settles O26: the preconditions make `Block.evict` the next block and the two pages different, so
that each slot and counter is the one its own write left. -/
theorem evictReassignsFrame : Obligations.EvictReassignsFrame := by
  intro s b victim incoming hb hs hv hi hvp hip
  have hne : victim ≠ incoming := by
    rintro rfl
    simp [hip] at hvp
  refine ⟨rfl, b.evict victim incoming,
    exec_evict_of_ready hb hs (Block.evictReady_iff.2 ⟨hv, hi, hvp, hip⟩), rfl, rfl, rfl,
    fun hshape => ?_⟩
  have ⟨hpt, hcnt⟩ := hshape
  have hentry := Block.entry_evict (b := b) (hpt ▸ hv) (hpt ▸ hi)
  have hcount := Block.count_evict (b := b) (hcnt ▸ hv) (hcnt ▸ hi)
  have hnew : (b.evict victim incoming).entry incoming = b.cfg.pack (b.frameOf victim) true := by
    rw [hentry, if_pos rfl]
  refine ⟨hshape.evict victim incoming, ?_, ?_, ?_, ?_, ?_, ?_, fun q hqv hqi => ⟨?_, ?_⟩⟩
  · rw [hentry, if_neg hne, if_pos rfl]
  · rw [hcount, if_neg hne, if_pos rfl]
  · rw [hnew, b.pack_frameOf]
  · rw [hcount, if_pos rfl]
  · rw [Block.isPresent, hnew, Block.evict_cfg, Cfg.present_pack]
  · rw [Block.frameOf, hnew, Block.evict_cfg, b.frame_pack_frameOf]
  · rw [hentry, if_neg hqi, if_neg hqv]
  · rw [hcount, if_neg hqi, if_neg hqv]

/-- Settles O35: a TRANSLATE ends with the Split error, with a frame, or with the error of a lookup,
and on a good block no lookup has one. -/
theorem noVictimUnreachableInTranslate : Obligations.NoVictimUnreachableInTranslate := by
  refine ⟨fun c hc => hc.one_le_frameCount, fun s t b va r hb hgood h hresp => ?_,
    fun s b hb habsent => exec_selvict_of_none_present hb habsent⟩
  have hexec : execTranslate va s = .next t := h
  rcases execTranslate_cases va hb with ⟨-, he⟩ | ⟨-, b', f, -, he⟩ | ⟨-, b', e, hl, -⟩
  · cases he.symm.trans hexec
    obtain ⟨rfl, -⟩ := List.cons.inj hresp
    exact Status.noConfusion
  · cases he.symm.trans hexec
    obtain ⟨rfl, -⟩ := List.cons.inj hresp
    exact Status.noConfusion
  · exact absurd hl (hgood.lookup_ne_error _ e)

end Sys2Proof.Machine
end

section
/-!
SUPPORT. Facts that the statements of 44_translator.md share: the two fields of an address under a
legal configuration, what SPLIT and COMPOSE answer, and each end of a lookup from what decides it.
-/

namespace Sys2Proof.Machine

/-! ### The fields of an address (44_translator.md R145) -/

theorem Cfg.vpn_eq_div_s {c : Cfg} (hc : c.Valid) (va : Nat) : c.vpn va = va / c.s := by
  obtain ⟨hs, -⟩ := hc.arith
  rw [Cfg.vpn_eq_div, ← hs]

theorem Cfg.offset_eq_mod_s {c : Cfg} (hc : c.Valid) (va : Nat) : c.offset va = va % c.s := by
  obtain ⟨hs, -⟩ := hc.arith
  rw [Cfg.offset_eq_mod, ← hs]

/-- `V` is a whole number of pages, so it is the first address past the last page. -/
theorem Cfg.vpn_lt_pageCount_iff {c : Cfg} (hc : c.Valid) (va : Nat) :
    c.vpn va < c.pageCount ↔ va < c.v := by
  obtain ⟨hs, -, -, hv, -⟩ := hc.arith
  have hpos : 0 < c.s := hs ▸ Nat.two_pow_pos _
  rw [Cfg.vpn_eq_div_s hc, Nat.div_lt_iff_lt_mul hpos, hv]

/-! ### SPLIT and COMPOSE on a configured block (44_translator.md R145, R147) -/

theorem exec_split_of_lt {s : State} {b : Block} {va : Nat} (hb : s.block = some b)
    (hlt : b.cfg.vpn va < b.cfg.pageCount) :
    exec (.split va) s =
      .next (s.respond (.ofPair (b.cfg.vpn va) (b.cfg.offset va))) := by
  rw [exec, execSplit]
  exact State.probe_ok hb (by rw [Cfg.split_of_lt hlt, Except.map])

theorem exec_split_of_le {s : State} {b : Block} {va : Nat} (hb : s.block = some b)
    (hle : b.cfg.pageCount ≤ b.cfg.vpn va) :
    exec (.split va) s =
      .next (s.raise (.invalidPage (b.cfg.vpn va) va b.cfg.pageCount)) := by
  rw [exec, execSplit]
  exact State.probe_error hb (by rw [Cfg.split_of_le hle, Except.map])

theorem exec_compose {s : State} {b : Block} (frame offset : Nat) (hb : s.block = some b) :
    exec (.compose frame offset) s = .next (s.respond (.ofNat (b.cfg.compose frame offset))) := by
  rw [exec, execCompose]
  exact State.probe_ok hb rfl

/-! ### The blocks a lookup installs, field by field (44_translator.md R150 steps 3 and 4) -/

theorem Block.hit_eq (b : Block) (pr : Config.Params) (vpn : Nat) :
    b.hit pr vpn = { b with cnt := b.cnt.set vpn (incW pr.cntBits (b.count vpn)) } := rfl

theorem Block.countFault_loadFree_eq (b : Block) (pr : Config.Params) (vpn f : Nat) :
    (b.countFault pr).loadFree vpn f =
      { b with
        pt := b.pt.set vpn (b.cfg.pack f true)
        cnt := b.cnt.set vpn 1
        fs := b.fs.insert f
        faults := incW pr.faultBits b.faults } := rfl

theorem Block.countFault_evict_eq (b : Block) (pr : Config.Params) (victim vpn : Nat) :
    (b.countFault pr).evict victim vpn =
      { b with
        pt := (b.pt.set victim 0).set vpn (b.cfg.pack (b.frameOf victim) true)
        cnt := (b.cnt.set victim 0).set vpn 1
        faults := incW pr.faultBits b.faults } := rfl

/-- The present entry of a frame, as the formula of PACK (40_codec.md R110). -/
theorem Cfg.pack_true_eq (c : Cfg) (frame : Nat) :
    c.pack frame true = (frame &&& (2 ^ c.frameBits - 1)) ||| 2 ^ c.frameBits := rfl

/-! ### The end of a lookup, from what decides it (44_translator.md R150) -/

theorem Block.lookup_of_present {b : Block} {vpn : Nat} (pr : Config.Params)
    (hp : b.isPresent vpn = true) : b.lookup pr vpn = (b.hit pr vpn, .ok (b.frameOf vpn)) := by
  rw [Block.lookup, if_pos hp]

theorem Block.lookup_of_absent {b : Block} {vpn : Nat} (pr : Config.Params)
    (ha : b.isPresent vpn = false) : b.lookup pr vpn = (b.countFault pr).assign vpn := by
  rw [Block.lookup, if_neg (by simp [ha])]

/-- Counting the fault changes neither what FINDFREE nor what SELVICT reads. -/
theorem Block.countFault_findFree (b : Block) (pr : Config.Params) :
    (b.countFault pr).findFree = b.findFree := rfl

theorem Block.countFault_selVict (b : Block) (pr : Config.Params) :
    (b.countFault pr).selVict = b.selVict := rfl

theorem Block.lookup_of_findFree {b : Block} {vpn f : Nat} (pr : Config.Params)
    (ha : b.isPresent vpn = false) (hf : b.findFree = some f) :
    b.lookup pr vpn = ((b.countFault pr).loadFree vpn f, .ok f) := by
  rw [Block.lookup_of_absent pr ha, Block.assign, Block.countFault_findFree, hf]

theorem Block.lookup_of_selVict {b : Block} {vpn victim : Nat} (pr : Config.Params)
    (ha : b.isPresent vpn = false) (hf : b.findFree = none) (hv : b.selVict = some victim) :
    b.lookup pr vpn = ((b.countFault pr).evict victim vpn, .ok (b.frameOf victim)) := by
  rw [Block.lookup_of_absent pr ha, Block.assign, Block.countFault_findFree, hf,
    Block.countFault_selVict, hv]
  rfl

theorem Block.lookup_of_no_victim {b : Block} {vpn : Nat} (pr : Config.Params)
    (ha : b.isPresent vpn = false) (hf : b.findFree = none) (hv : b.selVict = none) :
    b.lookup pr vpn = (b.countFault pr, .error .noVictim) := by
  rw [Block.lookup_of_absent pr ha, Block.assign, Block.countFault_findFree, hf,
    Block.countFault_selVict, hv]

/-! ### TRANSLATE on a configured block (44_translator.md R150) -/

theorem exec_translate_of_le {s : State} {b : Block} {va : Nat} (hb : s.block = some b)
    (hle : b.cfg.pageCount ≤ b.cfg.vpn va) :
    exec (.translate va) s =
      .next (s.raise (.invalidPage (b.cfg.vpn va) va b.cfg.pageCount)) := by
  rw [exec, execTranslate, State.whenConfigured_some hb, Cfg.split_of_le hle]

theorem exec_translate_of_lookup_ok {s : State} {b b' : Block} {va f : Nat} (hb : s.block = some b)
    (hlt : b.cfg.vpn va < b.cfg.pageCount)
    (hl : b.lookup s.params (b.cfg.vpn va) = (b', .ok f)) :
    exec (.translate va) s =
      .next ((s.withBlock b').respond (.ofNat (b.cfg.compose f (b.cfg.offset va)))) := by
  rw [exec, execTranslate, State.whenConfigured_some hb, Cfg.split_of_lt hlt]
  simp only [hl]

theorem exec_translate_of_lookup_error {s : State} {b b' : Block} {va : Nat} {e : OpError}
    (hb : s.block = some b) (hlt : b.cfg.vpn va < b.cfg.pageCount)
    (hl : b.lookup s.params (b.cfg.vpn va) = (b', .error e)) :
    exec (.translate va) s = .next ((s.withBlock b').raise e) := by
  rw [exec, execTranslate, State.whenConfigured_some hb, Cfg.split_of_lt hlt]
  simp only [hl]

end Sys2Proof.Machine
end

section
/-!
The statements of 44_translator.md R145 to R151, settled.
-/

namespace Sys2Proof.Machine

/-- Settles O28: the two sides of `page_count`, which under a legal configuration are the two sides
of `V`. -/
theorem splitDerivesPageAndOffset : Obligations.SplitDerivesPageAndOffset := by
  intro s b va hb
  refine ⟨fun hlt => ?_, fun hle => ?_, fun hc => ⟨?_, ?_, ?_⟩, fun c hop harg => ?_⟩
  · exact exec_split_of_lt hb hlt
  · exact exec_split_of_le hb hle
  · exact Cfg.vpn_eq_div_s hc va
  · exact Cfg.offset_eq_mod_s hc va
  · exact Cfg.vpn_lt_pageCount_iff hc va
  · simp [decode, hop, harg]

/-- Settles O29: COMPOSE answers `Cfg.compose`, and an offset below `S` overlaps no bit of the
shifted frame. -/
theorem composeBuildsPhysicalAddress : Obligations.ComposeBuildsPhysicalAddress := by
  intro s b frame offset hb
  refine ⟨exec_compose frame offset hb, fun hc hf ho => ⟨?_, ?_⟩, fun c hop harg0 harg1 => ?_⟩
  · exact Cfg.compose_eq_mul_add hc ho
  · exact Cfg.compose_lt hc hf ho
  · simp [decode, hop, harg0, harg1]

/-- Settles O30: the statement's conditions on frames and pages say what FINDFREE and SELVICT
answer, and these decide the end of the lookup. -/
theorem translateFollowsItsStateMachine : Obligations.TranslateFollowsItsStateMachine := by
  intro s b va vpn offset hb hvpn hoffset
  obtain rfl : vpn = b.cfg.vpn va := hvpn
  obtain rfl : offset = b.cfg.offset va := hoffset
  refine ⟨fun hle => ?_, fun hlt hp => ?_, fun hlt ha f hf hfree hbelow => ?_,
    fun hlt ha hfull v hv hvp hmin => ?_, fun hlt hfull hnone => ?_, fun c hop harg => ?_⟩
  · exact exec_translate_of_le hb hle
  · have hl := Block.lookup_of_present s.params hp
    rw [exec_translate_of_lookup_ok hb hlt hl, Block.hit_eq]
    rfl
  · have hff : b.findFree = some f := Block.findFree_eq_some_iff.2 ⟨hf, hfree, hbelow⟩
    have hl := Block.lookup_of_findFree s.params ha hff
    rw [exec_translate_of_lookup_ok hb hlt hl, Block.countFault_loadFree_eq, Cfg.pack_true_eq]
    rfl
  · have hff : b.findFree = none := Block.findFree_eq_none_iff.2 hfull
    have hsv : b.selVict = some v := Block.selVict_eq_some_iff.2 ⟨hv, hvp, hmin⟩
    have hl := Block.lookup_of_selVict s.params ha hff hsv
    rw [exec_translate_of_lookup_ok hb hlt hl, Block.countFault_evict_eq, Cfg.pack_true_eq]
    rfl
  · have hff : b.findFree = none := Block.findFree_eq_none_iff.2 hfull
    have hsv : b.selVict = none := Block.selVict_eq_none_iff.2 hnone
    have hl := Block.lookup_of_no_victim s.params (hnone _ hlt) hff hsv
    exact exec_translate_of_lookup_error hb hlt hl
  · simp [decode, hop, harg]

/-- Settles O31: a TRANSLATE ends with the Split error, with a frame, or with the error of a lookup,
and NoVictimError is the only one a lookup has. -/
theorem translateHasThreeOutcomes : Obligations.TranslateHasThreeOutcomes := by
  intro s b va hb
  rcases execTranslate_cases va hb with ⟨-, he⟩ | ⟨-, b', f, -, he⟩ | ⟨-, b', e, hl, he⟩
  · exact ⟨_, _, he, rfl, Or.inr (Or.inl rfl)⟩
  · exact ⟨_, _, he, rfl, Or.inl rfl⟩
  · obtain rfl : e = .noVictim := Block.lookup_error_eq_noVictim hl
    exact ⟨_, _, he, rfl, Or.inr (Or.inr rfl)⟩

end Sys2Proof.Machine
end

section
/-!
SUPPORT. Facts that the statements of 45_host_interface.md share: what RDCNT, RDFS and SNAPSHOT
answer on a configured block, and the rows of a snapshot.
-/

namespace Sys2Proof.Machine

/-! ### RDCNT on a configured block (45_host_interface.md R166) -/

theorem exec_rdcnt_of_lt {s : State} {b : Block} {page : Nat} (hb : s.block = some b)
    (hp : page < b.cfg.pageCount) :
    exec (.rdcnt page) s = .next (s.respond (.ofNat (b.count page))) := by
  rw [exec, execRdcnt]
  exact State.probe_ok hb (by simp [Block.readCount, Nat.not_le.2 hp, Except.map])

theorem exec_rdcnt_of_le {s : State} {b : Block} {page : Nat} (hb : s.block = some b)
    (hp : b.cfg.pageCount ≤ page) :
    exec (.rdcnt page) s = .next (s.raise (.outOfRange page b.cfg.pageCount)) := by
  rw [exec, execRdcnt]
  exact State.probe_error hb (by simp [Block.readCount, hp, Except.map])

theorem Block.Good.count_of_absent {b : Block} {pr : Config.Params} {page : Nat} (hb : b.Good pr)
    (hp : page < b.cfg.pageCount) (habsent : b.isPresent page = false) : b.count page = 0 := by
  obtain ⟨-, -, -, -, -, hunused, -⟩ := hb
  exact hunused page hp habsent

/-! ### RDFS on a configured block (45_host_interface.md R167) -/

theorem exec_rdfs_of_lt {s : State} {b : Block} {frame : Nat} (hb : s.block = some b)
    (hf : frame < b.cfg.frameCount) :
    exec (.rdfs frame) s = .next (s.respond (.ofNat (boolResult (b.fs.mem frame)))) := by
  rw [exec, execRdfs]
  exact State.probe_ok hb (by simp [Block.readFrameSet, Nat.not_le.2 hf, Except.map])

theorem exec_rdfs_of_le {s : State} {b : Block} {frame : Nat} (hb : s.block = some b)
    (hf : b.cfg.frameCount ≤ frame) :
    exec (.rdfs frame) s = .next (s.raise (.outOfRange frame b.cfg.frameCount)) := by
  rw [exec, execRdfs]
  exact State.probe_error hb (by simp [Block.readFrameSet, hf, Except.map])

/-! ### SNAPSHOT on a configured block (45_host_interface.md R169) -/

theorem exec_snapshot {s : State} {b : Block} (hb : s.block = some b) :
    exec .snapshot s = .next (s.respond (.ofList (.rows b.snapshot))) := by
  rw [exec, execSnapshot]
  exact State.probe_ok hb rfl

theorem Block.snapshot_length (b : Block) : b.snapshot.length = b.cfg.pageCount := by
  rw [Block.snapshot, List.length_map, List.length_range]

theorem Block.snapshot_getElem? {b : Block} {p : Nat} (hp : p < b.cfg.pageCount) :
    b.snapshot[p]? = some (b.row p) := by
  rw [Block.snapshot, List.getElem?_map, List.getElem?_range hp, Option.map_some]

end Sys2Proof.Machine
end

section
/-!
The statements of 45_host_interface.md R166, R167 and R169, settled.
-/

namespace Sys2Proof.Machine

/-- Settles O42: the two sides of `page_count`; the 0 of an absent page is 10_state.md R29 item 3. -/
theorem rdcntReadsCounter : Obligations.RdcntReadsCounter := by
  intro s b page hb
  refine ⟨fun hlt => ⟨?_, fun hgood habsent => ?_⟩, fun hle => ?_, fun c hop harg => ?_⟩
  · exact exec_rdcnt_of_lt hb hlt
  · rw [exec_rdcnt_of_lt hb hlt, hgood.count_of_absent hlt habsent]
    rfl
  · exact exec_rdcnt_of_le hb hle
  · simp [decode, hop, harg]

/-- Settles O43: the two sides of `frame_count`, membership answered as one bit. -/
theorem rdfsTestsMembership : Obligations.RdfsTestsMembership := by
  intro s b frame hb
  refine ⟨fun hlt => ?_, fun hle => ?_, fun c hop harg => ?_⟩
  · have hbit : boolResult (b.fs.mem frame) = if b.fs.mem frame then 1 else 0 := by
      rw [← boolResult_decide, Bool.decide_eq_true]
    rw [exec_rdfs_of_lt hb hlt, hbit]
    rfl
  · exact exec_rdfs_of_le hb hle
  · simp [decode, hop, harg]

/-- Settles O45: the rows are those of `Block.snapshot`, one for each number below `page_count` at
the position of its page. -/
theorem snapshotListsEveryPage : Obligations.SnapshotListsEveryPage := by
  intro s b hb
  refine ⟨⟨b.snapshot, exec_snapshot hb, b.snapshot_length, fun p hp => ?_⟩, fun c hop => ?_⟩
  · exact Block.snapshot_getElem? hp
  · simp [decode, hop]

end Sys2Proof.Machine
end

section
/-!
SUPPORT. Facts that the statements of 60_exceptions.md share: which checks of CONSTRUCT report what,
what its warning names, and that an operation which does not end OK has raised an error.
-/

namespace Sys2Proof.Machine

/-! ### NOT_CONFIGURED (60_exceptions.md R188) -/

/-- Every other operation, the probes and TRANSLATE, runs under `State.whenConfigured`. -/
theorem exec_of_unconfigured {s : State} {i : Instr} (hb : s.block = none)
    (hclass : i.opClass ≠ .internal) (hop : i.opcode ≠ 0x00#5) :
    exec i s = .next (s.raise .notConfigured) := by
  cases i with
  | construct v p sz init => exact absurd rfl hop
  | ptbuild pageCount entryBits init => exact absurd rfl hclass
  | ptset page entry => exact absurd rfl hclass
  | evict victim incoming => exact absurd rfl hclass
  | _ => exact State.whenConfigured_none hb

/-! ### The checks of CONSTRUCT (60_exceptions.md R183) -/

theorem Cfg.entryBits_eq_log2 (c : Cfg) : c.entryBits = Nat.log2 c.frameCount + 5 := by
  rw [Cfg.entryBits, Cfg.frameBits_eq_log2, controlBits]

theorem exec_construct_of_sizeViolation {s : State} {v p sz : Nat} {e : OpError} (init : PageMap)
    (h : sizeViolation v p sz = some e) :
    exec (.construct v p sz init) s = .next (s.raise e) := by
  simp [exec, execConstruct, constructBlock, h]

/-- The entries are checked once the sizes make a legal configuration. -/
theorem exec_construct_of_entryViolation {s : State} {v p sz : Nat} {init : PageMap} {e : OpError}
    (hcfg : (Cfg.mk v p sz).Valid)
    (h : entryViolation (v / sz) (Nat.log2 (p / sz) + 5) init = some e) :
    exec (.construct v p sz init) s = .next (s.raise e) := by
  have hentry : entryViolation (Cfg.mk v p sz).pageCount (Cfg.mk v p sz).entryBits init =
      some e := by
    rw [Cfg.entryBits_eq_log2]
    exact h
  simp [exec, execConstruct, constructBlock, sizeViolation_eq_none_iff.2 hcfg, ptBuild, hentry]

/-- Sub-code 6: the first entry that fails a check names a page past the table. -/
theorem entryViolation_of_page {pc eb q e : Nat} {before after : PageMap}
    (hbefore : ∀ pe ∈ before, pe.1 < pc ∧ pe.2 < 2 ^ eb) (hq : pc ≤ q) :
    entryViolation pc eb (before ++ (q, e) :: after) =
      some ⟨.configError, { subcode := 6, page := q, value := q, bound := pc }⟩ := by
  rw [entryViolation_append _ hbefore, entryViolation, if_pos hq]

/-- Sub-code 7: the first entry that fails a check is in range but too wide. -/
theorem entryViolation_of_width {pc eb q e : Nat} {before after : PageMap}
    (hbefore : ∀ pe ∈ before, pe.1 < pc ∧ pe.2 < 2 ^ eb) (hq : q < pc) (he : 2 ^ eb ≤ e) :
    entryViolation pc eb (before ++ (q, e) :: after) =
      some ⟨.configError, { subcode := 7, page := q, value := e, bound := 2 ^ eb }⟩ := by
  rw [entryViolation_append _ hbefore, entryViolation, if_neg (Nat.not_le.2 hq), if_pos he]

/-! ### What the warning names (60_exceptions.md R186) -/

/-- A search over the numbers below `n` in increasing order stops at the first hit. -/
theorem findSome?_range_first {α : Type} {g : Nat → Option α} {n : Nat} {a : α}
    (h : (List.range n).findSome? g = some a) : ∃ f, g f = some a ∧ ∀ k < f, g k = none := by
  obtain ⟨l₁, f, l₂, hrange, hf, hbefore⟩ := List.findSome?_eq_some_iff.1 h
  refine ⟨f, hf, fun k hk => hbefore k ?_⟩
  have hsorted : (l₁ ++ f :: l₂).Pairwise (· < ·) := hrange ▸ List.pairwise_lt_range
  have hfn : f < n := List.mem_range.1 (by simp [hrange])
  have hmem : k ∈ l₁ ++ f :: l₂ := hrange ▸ List.mem_range.2 (hk.trans hfn)
  obtain ⟨-, htail, -⟩ := List.pairwise_append.1 hsorted
  rcases List.mem_append.1 hmem with hl | hr
  · exact hl
  · rcases List.mem_cons.1 hr with rfl | hr
    · exact absurd hk (Nat.lt_irrefl _)
    · exact absurd hk (Nat.lt_asymm (List.rel_of_pairwise_cons htail hr))

/-- The warning names a frame, the first two of its claimants, and no smaller frame is claimed
twice. -/
theorem duplicateClaim_eq_some {fb : Nat} {t : List Nat} {info : Info}
    (h : duplicateClaim fb t = some info) :
    ∃ f p1 p2 rest, info = { page := p1, value := p2, bound := f } ∧
      claimants fb t f = p1 :: p2 :: rest ∧
      ∀ g p q, p ∈ claimants fb t g → q ∈ claimants fb t g → p ≠ q → f ≤ g := by
  obtain ⟨f, hf, hsmaller⟩ := findSome?_range_first h
  obtain ⟨p1, p2, rest, hclaim, hinfo⟩ := claimPayload_eq_some hf
  refine ⟨f, p1, p2, rest, hinfo, hclaim, fun g p q hp hq hne => Nat.le_of_not_lt fun hlt => ?_⟩
  have hsome : (claimPayload fb t g).isSome = true := claimPayload_isSome_iff.2 ⟨p, q, hp, hq, hne⟩
  simp [hsmaller g hlt] at hsome

/-- The first two claimants are the two smallest. -/
theorem claimants_first_two {fb : Nat} {t : List Nat} {f p1 p2 : Nat} {rest : List Nat}
    (h : claimants fb t f = p1 :: p2 :: rest) :
    p1 < p2 ∧ ∀ q ∈ claimants fb t f, q < p2 → q = p1 := by
  have hsorted : (p1 :: p2 :: rest).Pairwise (· < ·) := h ▸ claimants_sorted fb t f
  obtain ⟨hhead, htail⟩ := List.pairwise_cons.1 hsorted
  refine ⟨hhead p2 List.mem_cons_self, fun q hq hlt => ?_⟩
  rw [h] at hq
  rcases List.mem_cons.1 hq with rfl | hq
  · rfl
  · rcases List.mem_cons.1 hq with rfl | hq
    · exact absurd hlt (Nat.lt_irrefl _)
    · exact absurd hlt (Nat.lt_asymm (List.rel_of_pairwise_cons htail hq))

/-- The claimants of a frame are the present pages of the fresh block that have it. -/
theorem mem_claimants_overlay {c : Cfg} {init : PageMap} {f p : Nat} (u : Nat) :
    p ∈ claimants c.frameBits (overlay c.pageCount init) f ↔
      p < c.pageCount ∧ (freshBlock c u (overlay c.pageCount init)).isPresent p = true ∧
        (freshBlock c u (overlay c.pageCount init)).frameOf p = f := by
  rw [mem_claimants, overlay_length]
  rfl

/-! ### Operations that do not end OK (60_exceptions.md R190) -/

theorem status_of_map_eq_ok {α : Type} {x : Except OpError α} {form : α → Response} {r : Response}
    (hform : ∀ a, (form a).status = .ok) (h : x.map form = .ok r) : r.status = .ok := by
  cases x with
  | ok a =>
    cases h
    exact hform a
  | error e => cases h

/-- The result `o` of an operation run from `s` only responds, with OK or with an error, or it is a
refusal. -/
def AnswersOrRaises (s : State) (o : Result) : Prop :=
  (∃ r, r.status = .ok ∧ o = .next (s.respond r)) ∨ (∃ e, o = .next (s.raise e)) ∨
    ∃ why, o = .refused why

theorem answersOrRaises_whenConfigured {s : State} {k : Block → Result}
    (hk : ∀ b, AnswersOrRaises s (k b)) : AnswersOrRaises s (s.whenConfigured k) := by
  cases hb : s.block with
  | none => exact Or.inr (Or.inl ⟨_, State.whenConfigured_none hb⟩)
  | some b =>
    rw [State.whenConfigured_some hb]
    exact hk b

theorem answersOrRaises_probe {s : State} {k : Block → Except OpError Response}
    (hk : ∀ b r, k b = .ok r → r.status = .ok) : AnswersOrRaises s (s.probe k) := by
  refine answersOrRaises_whenConfigured fun b => ?_
  cases hr : k b with
  | ok r => exact Or.inl ⟨r, hk b r hr, rfl⟩
  | error e => exact Or.inr (Or.inl ⟨e, rfl⟩)

/-- A probe that answers every block. -/
theorem answersOrRaises_probe_ok {s : State} {answer : Block → Response}
    (hanswer : ∀ b, (answer b).status = .ok) :
    AnswersOrRaises s (s.probe fun b => .ok (answer b)) :=
  answersOrRaises_probe fun b _ hr => Except.ok.inj hr ▸ hanswer b

/-- A probe whose answer is a computed value put into the form of an OK response. -/
theorem answersOrRaises_probe_map {α : Type} {s : State} {k : Block → Except OpError α}
    {form : α → Response} (hform : ∀ a, (form a).status = .ok) :
    AnswersOrRaises s (s.probe fun b => (k b).map form) :=
  answersOrRaises_probe fun _ _ hr => status_of_map_eq_ok hform hr

theorem execFmtbin_answersOrRaises (value width : Nat) (s : State) :
    AnswersOrRaises s (execFmtbin value width s) := by
  refine answersOrRaises_whenConfigured fun b => ?_
  split
  · exact Or.inl ⟨_, Response.ofList_status _, rfl⟩
  · exact Or.inr (Or.inr ⟨_, rfl⟩)

theorem execSelvict_answersOrRaises (s : State) : AnswersOrRaises s (execSelvict s) := by
  refine answersOrRaises_probe fun b r hr => ?_
  split at hr
  · cases hr
    rfl
  · cases hr

/-- An operation of the host that is neither CONSTRUCT nor TRANSLATE answers OK, raises an error, or
is refused. -/
theorem exec_answersOrRaises {i : Instr} {s : State} (hs : s.issuer = .host)
    (hi : i.opClass ≠ .entryPoint) : AnswersOrRaises s (exec i s) := by
  cases i with
  | construct v p sz init => exact absurd rfl hi
  | translate va => exact absurd rfl hi
  | pack frame present => exact answersOrRaises_probe_ok fun _ => rfl
  | unpack entry => exact answersOrRaises_probe_ok fun _ => rfl
  | fmtbin value width => exact execFmtbin_answersOrRaises value width s
  | split va => exact answersOrRaises_probe_map fun _ => rfl
  | compose frame offset => exact answersOrRaises_probe_ok fun _ => rfl
  | ptget page => exact answersOrRaises_probe_map Response.ofNat_status
  | findfree => exact answersOrRaises_probe_ok fun b => Response.ofOption_status b.findFree
  | selvict => exact execSelvict_answersOrRaises s
  | rdcnt page => exact answersOrRaises_probe_map Response.ofNat_status
  | rdfs frame => exact answersOrRaises_probe_map Response.ofNat_status
  | rdreg sel => exact answersOrRaises_probe_map Response.ofNat_status
  | snapshot => exact answersOrRaises_probe_ok fun _ => rfl
  | ptbuild pageCount entryBits init => exact Or.inr (Or.inl ⟨_, State.internal_host hs⟩)
  | ptset page entry => exact Or.inr (Or.inl ⟨_, State.internal_host hs⟩)
  | evict victim incoming => exact Or.inr (Or.inl ⟨_, State.internal_host hs⟩)

/-- A lookup that ends with an error has counted the fault and done nothing else. -/
theorem Block.lookup_error_block {b b' : Block} {pr : Config.Params} {vpn : Nat} {e : OpError}
    (h : b.lookup pr vpn = (b', .error e)) : b' = b.countFault pr := by
  rcases b.lookup_cases pr vpn with
    ⟨-, hl⟩ | ⟨-, f, -, hl⟩ | ⟨-, -, v, -, hl⟩ | ⟨-, -, -, hl⟩
  all_goals cases hl.symm.trans h
  rfl

/-- How a TRANSLATE fails: with an error other than NoVictimError that changes nothing, or with
NoVictimError after counting the fault. -/
theorem execTranslate_error_cases {s t : State} {va : Nat} {r : Response}
    (h : execTranslate va s = .next t) (hresp : t.responses = r :: s.responses)
    (hr : r.status ≠ .ok) :
    (∃ e, t = s.raise e ∧ e.status ≠ .noVictimError) ∨
    ∃ b, s.block = some b ∧ t = (s.withBlock (b.countFault s.params)).raise .noVictim := by
  cases hb : s.block with
  | none =>
    rw [execTranslate, State.whenConfigured_none hb] at h
    cases h
    exact Or.inl ⟨_, rfl, Status.noConfusion⟩
  | some b =>
    rcases execTranslate_cases va hb with ⟨-, he⟩ | ⟨-, b', f, -, he⟩ | ⟨-, b', e, hl, he⟩
    · cases he.symm.trans h
      exact Or.inl ⟨_, rfl, Status.noConfusion⟩
    · cases he.symm.trans h
      obtain ⟨rfl, -⟩ := List.cons.inj hresp
      exact absurd rfl hr
    · cases he.symm.trans h
      obtain rfl : e = .noVictim := Block.lookup_error_eq_noVictim hl
      obtain rfl : b' = b.countFault s.params := Block.lookup_error_block hl
      exact Or.inr ⟨b, rfl, rfl⟩

/-- How an operation of the host fails: it raises an error and changes nothing, or it is a TRANSLATE
that ends with NoVictimError after counting the fault. -/
theorem exec_error_cases {s t : State} {i : Instr} {r : Response} (hs : s.issuer = .host)
    (h : exec i s = .next t) (hresp : t.responses = r :: s.responses) (hr : r.status ≠ .ok) :
    (∃ e, t = s.raise e ∧ (i.opcode = 0x01#5 → e.status ≠ .noVictimError)) ∨
    (i.opcode = 0x01#5 ∧ ∃ b, s.block = some b ∧
      t = (s.withBlock (b.countFault s.params)).raise .noVictim) := by
  by_cases hclass : i.opClass = .entryPoint
  · cases i with
    | construct v p sz init =>
      rcases execConstruct_cases v p sz init s with ⟨e, -, he⟩ | ⟨-, -, -, he⟩
      · cases he.symm.trans h
        exact Or.inl ⟨e, rfl, fun hop => by simp [Instr.opcode] at hop⟩
      · cases he.symm.trans h
        obtain ⟨rfl, -⟩ := List.cons.inj hresp
        exact absurd (Response.ofWarning_status _) hr
    | translate va =>
      rcases execTranslate_error_cases h hresp hr with ⟨e, ht, he⟩ | hb
      · exact Or.inl ⟨e, ht, fun _ => he⟩
      · exact Or.inr ⟨rfl, hb⟩
    | _ => cases hclass
  · rcases exec_answersOrRaises hs hclass with ⟨r', hok, he⟩ | ⟨e, he⟩ | ⟨why, he⟩
    · cases he.symm.trans h
      obtain ⟨rfl, -⟩ := List.cons.inj hresp
      exact absurd hok hr
    · cases he.symm.trans h
      refine Or.inl ⟨e, rfl, fun hop => ?_⟩
      exact absurd (Instr.opClass_eq_entryPoint_iff.2 (Or.inr hop)) hclass
    · cases he.symm.trans h

/-- How a step that took command `c` fails: as the operation of `c` does, or with ILLEGAL_OP. -/
theorem step_error_cases {s t : State} {c : Command} {rest : List Command} {r : Response}
    (hin : s.inbox = c :: rest) (h : step s = .next t) (hresp : t.responses = r :: s.responses)
    (hr : r.status ≠ .ok) :
    (∃ e, t = (s.accept rest).raise e ∧ (c.op = 0x01#5 → e.status ≠ .noVictimError)) ∨
    (c.op = 0x01#5 ∧ ∃ b, s.block = some b ∧
      t = ((s.accept rest).withBlock (b.countFault s.params)).raise .noVictim) := by
  rcases step_cases h with ⟨hnil, -⟩ | ⟨c', rest', hin', hrun⟩
  · simp [hin] at hnil
  · obtain ⟨rfl, rfl⟩ := List.cons.inj (hin.symm.trans hin')
    rcases hrun with ⟨op, -, ht⟩ | ⟨i, hdec, -, hexec⟩
    · exact Or.inl ⟨_, ht, fun _ => Status.noConfusion⟩
    · rw [← opcode_of_decode hdec]
      exact exec_error_cases (State.accept_issuer s rest) hexec hresp hr

end Sys2Proof.Machine
end

section
/-!
The statements of 60_exceptions.md, settled.
-/

namespace Sys2Proof.Machine

/-- Settles O7: every such operation first asks for a configured block. -/
theorem unconfiguredAnswersNotConfigured : Obligations.UnconfiguredAnswersNotConfigured :=
  fun _ _ hb hclass hop => exec_of_unconfigured hb hclass hop

/-- Settles O37: each clause says that the checks before its own pass and its own fails, which is
what `sizeViolation` or, on a legal configuration, `entryViolation` reports. -/
theorem constructReportsFirstViolation : Obligations.ConstructReportsFirstViolation := by
  intro s v p sz init
  simp only [← isPow2_iff]
  refine ⟨fun hsz => ?_, fun hsz hv => ?_, fun hsz hv hp => ?_, fun hsz hv hp =>
    ⟨fun hvs => ?_, fun hvs hps => ?_, fun hvs hps before after q e hinit hbefore =>
      ⟨fun hq => ?_, fun hq he => ?_⟩⟩⟩
  · have hviolation : sizeViolation v p sz = some (.config 1 sz 0) := by
      simp [sizeViolation, hsz]
    exact exec_construct_of_sizeViolation init hviolation
  · have hviolation : sizeViolation v p sz = some (.config 2 v 0) := by
      simp [sizeViolation, hsz, hv]
    exact exec_construct_of_sizeViolation init hviolation
  · have hviolation : sizeViolation v p sz = some (.config 3 p 0) := by
      simp [sizeViolation, hsz, hv, hp]
    exact exec_construct_of_sizeViolation init hviolation
  · have hviolation : sizeViolation v p sz = some (.config 4 v sz) := by
      simp [sizeViolation, hsz, hv, hp, hvs]
    exact exec_construct_of_sizeViolation init hviolation
  · have hviolation : sizeViolation v p sz = some (.config 5 p sz) := by
      simp [sizeViolation, hsz, hv, hp, hvs, hps]
    exact exec_construct_of_sizeViolation init hviolation
  all_goals
    have hcfg : (Cfg.mk v p sz).Valid := ⟨hv, hp, hsz, hvs, hps⟩
    subst hinit
  · exact exec_construct_of_entryViolation hcfg (entryViolation_of_page hbefore hq)
  · exact exec_construct_of_entryViolation hcfg (entryViolation_of_width hbefore hq he)

/-- Settles O40: a CONSTRUCT that commits warns with `duplicateClaim` of its table, and the claimants
of a frame are the fresh block's present pages that have it. -/
theorem constructWarnsOfDuplicateClaims : Obligations.ConstructWarnsOfDuplicateClaims := by
  intro s t v p sz init r h hresp
  have hexec : execConstruct v p sz init s = .next t := h
  rcases execConstruct_cases v p sz init s with ⟨e, hstatus, he⟩ | ⟨-, -, -, he⟩
  · cases he.symm.trans hexec
    obtain ⟨rfl, -⟩ := List.cons.inj hresp
    exact ⟨fun _ => rfl, fun hok => Status.noConfusion (hstatus.symm.trans hok)⟩
  · cases he.symm.trans hexec
    obtain ⟨rfl, -⟩ := List.cons.inj hresp
    refine ⟨fun hr => absurd (Response.ofWarning_status _) hr,
      fun _ => ⟨_, rfl, ?_, fun hwarn => ?_⟩⟩
    · rw [Response.ofWarning_warn, duplicateClaim_isSome_iff, overlay_length]
      rfl
    · rw [Response.ofWarning_warn] at hwarn
      obtain ⟨info, hinfo⟩ := Option.isSome_iff_exists.1 hwarn
      obtain ⟨f, p1, p2, rest, rfl, hclaim, hleast⟩ := duplicateClaim_eq_some hinfo
      obtain ⟨hlt, hfirst⟩ := claimants_first_two hclaim
      have hmem {g q : Nat} := mem_claimants_overlay (c := Cfg.mk v p sz) (init := init) (f := g)
        (p := q) s.params.initUsage
      obtain ⟨-, hp1, hf1⟩ := hmem.1 (hclaim ▸ List.mem_cons_self)
      obtain ⟨hlt2, hp2, hf2⟩ := hmem.1 (hclaim ▸ List.mem_cons_of_mem _ List.mem_cons_self)
      refine ⟨f, p1, p2, by rw [hinfo]; rfl, hlt, hlt2, hp1, hp2, hf1, hf2, ?_, ?_⟩
      · exact fun q hq hpq hfq => hfirst q (hmem.2 ⟨hq.trans hlt2, hpq, hfq⟩) hq
      · exact fun q1 q2 hq1 hq2 hne hpq1 hpq2 hsame =>
          hleast _ q1 q2 (hmem.2 ⟨hq1, hpq1, rfl⟩) (hmem.2 ⟨hq2, hpq2, hsame.symm⟩) hne

/-- Settles O50: a step that fails has raised an error, on the state as it was or, for a TRANSLATE
without a victim, after counting the fault. -/
theorem errorsLeaveTheState : Obligations.ErrorsLeaveTheState := by
  intro s t c rest r hin h hresp hr
  rcases step_error_cases hin h hresp hr with ⟨e, rfl, he⟩ | ⟨hop, b, hb, rfl⟩
  · obtain ⟨rfl, -⟩ := List.cons.inj hresp
    exact ⟨rfl, rfl, rfl, rfl, rfl, fun b hop hnv => absurd hnv (he hop), fun _ => rfl⟩
  · obtain ⟨rfl, -⟩ := List.cons.inj hresp
    refine ⟨rfl, rfl, rfl, rfl, rfl, fun b' _ _ hb' => ?_, fun hne => ?_⟩
    · cases hb.symm.trans hb'
      rfl
    · exact absurd hne (by simp [hop, OpError.noVictim])

end Sys2Proof.Machine
end

section
/-!
PROOFS. The statement of 70_reset_and_hazards.md about power-on. UNCONFIGURED is having no block
contents (10_state.md R22), and the reset state has none.
-/

namespace Sys2Proof.Machine

/-- `CONFIGURED` is 0 exactly while there are no block contents (10_state.md R22). -/
theorem State.configured_eq_false_iff {s : State} : s.configured = false ↔ s.block = none :=
  Option.isSome_eq_false_iff.trans Option.isNone_iff_eq_none

@[simp] theorem State.reset_block : State.reset.block = none := rfl

/-- Settles O1: the reset state has no block contents, which is what `CONFIGURED` = 0 says. -/
theorem resetIsUnconfigured : Obligations.ResetIsUnconfigured :=
  ⟨State.configured_eq_false_iff.2 State.reset_block, State.reset_block⟩

end Sys2Proof.Machine
end

section
/-!
SUPPORT. Facts that the statements on the port's encoding share: the command an instruction is
carried by, well-formedness of what the decoder gives, and that the canonical form of a map is a
rearrangement of it.
-/

namespace Sys2Proof

/-! ### Commands of instructions (30_encoding.md R88, R90) -/

@[simp] theorem encode_op (i : Instr) : (encode i).op = i.opcode := by
  cases i <;> rfl

/-- The two maps an instruction can hold come back because they are their own canonical forms; the
Boolean of PACK is its one bit. -/
theorem decode_encode {i : Instr} (hi : i.wf = true) : decode (encode i) = .ok i := by
  cases i with
  | construct v p s init =>
    have hasc : init.Ascending := of_decide_eq_true hi
    simp [decode, encode, Instr.opcode, PageMap.canon_of_ascending hasc]
  | ptbuild pageCount entryBits init =>
    have hasc : init.Ascending := of_decide_eq_true hi
    simp [decode, encode, Instr.opcode, PageMap.canon_of_ascending hasc]
  | pack frame present => cases present <;> rfl
  | _ => rfl

/-- The decoder keeps maps in canonical form, and no other operand can be ill-formed. -/
theorem wf_of_decode {c : Command} {i : Instr} (h : decode c = .ok i) : i.wf = true := by
  unfold decode at h
  split at h
  case h_1 | h_15 =>
    cases h
    exact decide_eq_true (PageMap.canon_ascending c.map)
  case h_3 =>
    obtain ⟨b, rfl⟩ := decodePack_eq_ok h
    rfl
  case h_18 => cases h
  all_goals
    cases h
    rfl

/-! ### The canonical form of a map (30_encoding.md R88, 92_eei_decisions.md D22) -/

/-- Putting a new key inserts the pair somewhere and keeps the others. -/
theorem PageMap.put_perm {m : PageMap} {p e : Nat} (h : p ∉ m.map Prod.fst) :
    (PageMap.put p e m).Perm ((p, e) :: m) := by
  induction m with
  | nil => exact List.Perm.refl _
  | cons qd m ih =>
    obtain ⟨q, d⟩ := qd
    obtain ⟨hpq, hp⟩ : p ≠ q ∧ p ∉ m.map Prod.fst := by simpa using h
    by_cases hlt : p < q
    · rw [PageMap.put, if_pos hlt]
    · rw [PageMap.put, if_neg hlt, if_neg hpq]
      exact ((ih hp).cons _).trans (List.Perm.swap _ _ _)

/-- With unique keys nothing is overwritten, so the canonical form holds the same pairs. -/
theorem PageMap.canon_perm {m : PageMap} (hm : (m.map Prod.fst).Nodup) :
    (PageMap.canon m).Perm m := by
  suffices h : ∀ m acc : PageMap, ((acc ++ m).map Prod.fst).Nodup →
      (m.foldl (fun acc pe => PageMap.put pe.1 pe.2 acc) acc).Perm (acc ++ m) from h m [] hm
  intro m
  induction m with
  | nil => simp
  | cons pe m ih =>
    intro acc hkeys
    have hperm : (acc ++ pe :: m).Perm (pe :: acc ++ m) := List.perm_middle
    have hkeys' : ((pe :: acc ++ m).map Prod.fst).Nodup := (hperm.map _).nodup_iff.1 hkeys
    have hnew : pe.1 ∉ acc.map Prod.fst := fun hmem =>
      (List.nodup_cons.1 hkeys').1 (List.map_subset _ (List.subset_append_left acc m) hmem)
    have hput : (PageMap.put pe.1 pe.2 acc ++ m).Perm (pe :: acc ++ m) :=
      (PageMap.put_perm hnew).append_right m
    exact (ih _ ((hput.map _).nodup_iff.2 hkeys')).trans (hput.trans hperm.symm)

/-- A map has one canonical form: increasing keys leave no choice of order. -/
theorem PageMap.Ascending.eq_of_perm {m m' : PageMap} (hm : m.Ascending) (hm' : m'.Ascending)
    (h : m.Perm m') : m = m' :=
  h.eq_of_pairwise (fun _ _ _ _ hlt hgt => absurd hlt (Nat.lt_asymm hgt)) hm hm'

end Sys2Proof

namespace Sys2Proof.Machine

/-! ### Comments (30_encoding.md R96) -/

theorem dropComment_append_comment (line comment : List Char) :
    dropComment (line ++ ';' :: comment) = dropComment line := by
  induction line with
  | nil => rfl
  | cons c line ih =>
    rw [dropComment] at ih ⊢
    by_cases hc : c = ';'
    · simp [dropComment, hc]
    · simpa [dropComment, hc] using ih

end Sys2Proof.Machine
end

section
/-!
The statements of 30_encoding.md on commands, codes, maps and lines, settled.
-/

namespace Sys2Proof.Machine

/-- Settles O9: `decode_encode`, by cases on the 17 operations. -/
theorem decodeEncodeRoundTrip : Obligations.DecodeEncodeRoundTrip :=
  fun _ hi => decode_encode hi

/-- Settles O10: the operation code decides the row of the decoder's table, and the row's maps are
in canonical form. -/
theorem decodedIsWellFormedOfItsOp : Obligations.DecodedIsWellFormedOfItsOp := by
  intro c i h
  have hop : i.opcode = c.op := opcode_of_decode h
  exact ⟨wf_of_decode h, hop, (encode_op i).trans hop⟩

/-- Settles O11: both canonical forms are rearrangements of the same pairs, in increasing order. -/
theorem mapOrderDoesNotMatter : Obligations.MapOrderDoesNotMatter := by
  intro m m' hperm hkeys
  have hkeys' : (m'.map Prod.fst).Nodup := (hperm.map _).nodup_iff.1 hkeys
  refine (PageMap.canon_ascending m).eq_of_perm (PageMap.canon_ascending m') ?_
  exact (PageMap.canon_perm hkeys).trans (hperm.trans (PageMap.canon_perm hkeys').symm)

/-- Settles O8: `Status.code` is the table. -/
theorem statusCodesAreThoseOfTheTable : Obligations.StatusCodesAreThoseOfTheTable :=
  ⟨rfl, rfl, rfl, rfl, rfl, rfl, rfl⟩

/-- Settles O12: the eight commands carry well-formed instructions, and 0x0E has no row. -/
theorem decodeReadsTheTable : Obligations.DecodeReadsTheTable :=
  ⟨decode_encode (i := .construct 512 256 32 [(3, 255)]) rfl,
    decode_encode (i := .translate 5) rfl, decode_encode (i := .pack 5 true) rfl,
    decode_encode (i := .ptget 8) rfl, decode_encode (i := .findfree) rfl,
    decode_encode (i := .selvict) rfl, decode_encode (i := .snapshot) rfl,
    decode_encode (i := .evict 1 2) rfl, decode_of_unassigned (Or.inl rfl)⟩

/-- Settles O13: the assembler reads a line through `commandText`, which begins by dropping the
comment. -/
theorem assemblerIgnoresComments : Obligations.AssemblerIgnoresComments := by
  intro line comment
  have htext : commandText (line ++ ';' :: comment) = commandText line := by
    rw [commandText, dropComment_append_comment, commandText]
  rw [assembleLine, htext, assembleLine]

end Sys2Proof.Machine
end

section
/-!
SUPPORT. What every completed operation has in common, whoever invoked it: it gives one response,
whose `info` is the free record when it is OK without a warning, and writes no state but the block.
-/

namespace Sys2Proof.Machine

/-! ### Errors are no OK responses (60_exceptions.md R181) -/

/-- The value `x`, if it is an error, has a status other than OK. -/
def FailsWithError {α : Type} (x : Except OpError α) : Prop :=
  ∀ e, x = .error e → e.status ≠ .ok

theorem failsWithError_ok {α : Type} (a : α) : FailsWithError (.ok a) := by
  intro e h
  cases h

theorem failsWithError_error {α : Type} {e : OpError} (he : e.status ≠ .ok) :
    FailsWithError (.error e : Except OpError α) := by
  intro e' h
  cases h
  exact he

/-- An index is checked, then read (60_exceptions.md R184). -/
theorem failsWithError_checked {α : Type} {p : Prop} [Decidable p] {e : OpError} (a : α)
    (he : e.status ≠ .ok) : FailsWithError (if p then .error e else .ok a) := by
  split
  · exact failsWithError_error he
  · exact failsWithError_ok a

theorem Block.readReg_failsWithError (b : Block) (sel : Nat) : FailsWithError (b.readReg sel) := by
  by_cases h : 16 ≤ sel
  · rw [b.readReg_of_reserved h]
    exact failsWithError_error Status.noConfusion
  · have hlt : sel < b.registers.length := Nat.lt_of_not_le h
    rw [Block.readReg_of_registers (List.getElem?_eq_getElem hlt)]
    exact failsWithError_ok _

/-! ### Operations that complete (00_scope.md R13) -/

/-- An OK response without a warning holds the free record (assumption log 19). -/
def Response.IdleWhenSilent (r : Response) : Prop :=
  r.status = .ok → r.warn = false → r.info = Info.idle

/-- If the result `o` of an operation run from `s` is a next state, that state has one more response
and differs from `s` in nothing else but the block. -/
def RespondsOnce (s : State) (o : Result) : Prop :=
  ∀ t, o = .next t → ∃ (r : Response) (contents : Option Block), r.IdleWhenSilent ∧
    t = { s with block := contents, responses := r :: s.responses }

theorem respondsOnce_respond {s : State} {r : Response} (hr : r.IdleWhenSilent) :
    RespondsOnce s (.next (s.respond r)) := by
  intro t ht
  cases ht
  exact ⟨r, s.block, hr, rfl⟩

theorem respondsOnce_withBlock {s : State} (b : Block) {r : Response} (hr : r.IdleWhenSilent) :
    RespondsOnce s (.next ((s.withBlock b).respond r)) := by
  intro t ht
  cases ht
  exact ⟨r, some b, hr, rfl⟩

theorem idleWhenSilent_of_error {e : OpError} (he : e.status ≠ .ok) :
    Response.IdleWhenSilent { status := e.status, info := e.info } :=
  fun hok => absurd hok he

theorem respondsOnce_raise (s : State) {e : OpError} (he : e.status ≠ .ok) :
    RespondsOnce s (.next (s.raise e)) :=
  respondsOnce_respond (idleWhenSilent_of_error he)

theorem respondsOnce_refused (s : State) (why : Refusal) : RespondsOnce s (.refused why) := by
  intro t ht
  cases ht

theorem respondsOnce_whenConfigured {s : State} {k : Block → Result}
    (hk : ∀ b, RespondsOnce s (k b)) : RespondsOnce s (s.whenConfigured k) := by
  cases hb : s.block with
  | none =>
    rw [State.whenConfigured_none hb]
    exact respondsOnce_raise s Status.noConfusion
  | some b =>
    rw [State.whenConfigured_some hb]
    exact hk b

theorem respondsOnce_probe {s : State} {k : Block → Except OpError Response}
    (hok : ∀ b r, k b = .ok r → r.info = Info.idle) (herr : ∀ b, FailsWithError (k b)) :
    RespondsOnce s (s.probe k) := by
  refine respondsOnce_whenConfigured fun b => ?_
  cases hr : k b with
  | ok r => exact respondsOnce_respond fun _ _ => hok b r hr
  | error e => exact respondsOnce_raise s (herr b e hr)

/-- A probe that answers every block. -/
theorem respondsOnce_probe_ok {s : State} {answer : Block → Response}
    (hanswer : ∀ b, (answer b).info = Info.idle) :
    RespondsOnce s (s.probe fun b => .ok (answer b)) :=
  respondsOnce_probe (fun b _ hr => Except.ok.inj hr ▸ hanswer b) fun _ => failsWithError_ok _

/-- A probe whose answer is a computed value put into the form of an OK response. -/
theorem respondsOnce_probe_map {α : Type} {s : State} {k : Block → Except OpError α}
    {form : α → Response} (hform : ∀ a, (form a).info = Info.idle)
    (hk : ∀ b, FailsWithError (k b)) : RespondsOnce s (s.probe fun b => (k b).map form) := by
  refine respondsOnce_probe (fun b r hr => ?_) fun b e he => ?_
  · cases hkb : k b with
    | ok a =>
      rw [hkb] at hr
      cases hr
      exact hform a
    | error e =>
      rw [hkb] at hr
      cases hr
  · cases hkb : k b with
    | ok a =>
      rw [hkb] at he
      cases he
    | error e' =>
      rw [hkb] at he
      cases he
      exact hk b e hkb

theorem execFmtbin_respondsOnce (value width : Nat) (s : State) :
    RespondsOnce s (execFmtbin value width s) := by
  refine respondsOnce_whenConfigured fun b => ?_
  split
  · exact respondsOnce_respond fun _ _ => rfl
  · exact respondsOnce_refused s _

theorem execSelvict_respondsOnce (s : State) : RespondsOnce s (execSelvict s) := by
  refine respondsOnce_probe (fun b r hr => ?_) fun b => ?_
  · split at hr
    · cases hr
      rfl
    · cases hr
  · split
    · exact failsWithError_ok _
    · exact failsWithError_error Status.noConfusion

theorem execTranslate_respondsOnce (va : Nat) (s : State) :
    RespondsOnce s (execTranslate va s) := by
  cases hb : s.block with
  | none =>
    rw [execTranslate, State.whenConfigured_none hb]
    exact respondsOnce_raise s Status.noConfusion
  | some b =>
    rcases execTranslate_cases va hb with ⟨-, he⟩ | ⟨-, b', f, -, he⟩ | ⟨-, b', e, hl, he⟩
    · exact he ▸ respondsOnce_raise s Status.noConfusion
    · exact he ▸ respondsOnce_withBlock b' fun _ _ => rfl
    · cases Block.lookup_error_eq_noVictim hl
      exact he ▸ respondsOnce_withBlock b' (idleWhenSilent_of_error Status.noConfusion)

/-- Without a warning the payload of `Response.ofWarning` is the free record. -/
theorem Response.ofWarning_info_of_silent {w : Option Info}
    (h : (Response.ofWarning w).warn = false) : (Response.ofWarning w).info = Info.idle := by
  cases w with
  | none => rfl
  | some i => cases h

theorem execConstruct_respondsOnce (v p sz : Nat) (init : PageMap) (s : State) :
    RespondsOnce s (execConstruct v p sz init s) := by
  rcases execConstruct_cases v p sz init s with ⟨e, hstatus, he⟩ | ⟨-, -, -, he⟩
  · exact he ▸ respondsOnce_raise s (by simp [hstatus])
  · exact he ▸ respondsOnce_withBlock _ fun _ hwarn => Response.ofWarning_info_of_silent hwarn

/-! ### Internal operations, from the host and from the block (30_encoding.md R94) -/

theorem respondsOnce_internal {s : State} {op : OpCode} {k : Result} (hk : RespondsOnce s k) :
    RespondsOnce s (s.internal op k) := by
  cases hs : s.issuer with
  | host =>
    rw [State.internal_host hs]
    exact respondsOnce_raise s Status.noConfusion
  | block =>
    rw [State.internal_block hs]
    exact hk

theorem execPtbuild_respondsOnce (pageCount entryBits : Nat) (init : PageMap) (s : State) :
    RespondsOnce s (execPtbuild pageCount entryBits init s) := by
  refine respondsOnce_internal ?_
  split
  · cases he : entryViolation pageCount entryBits init with
    | some e =>
      rw [ptBuild, he]
      exact respondsOnce_raise s (by simp [entryViolation_status he])
    | none =>
      rw [ptBuild, he]
      exact respondsOnce_respond fun _ hwarn => Response.ofWarning_info_of_silent hwarn
  · exact respondsOnce_refused s _

theorem execPtset_respondsOnce (page entry : Nat) (s : State) :
    RespondsOnce s (execPtset page entry s) := by
  refine respondsOnce_internal ?_
  split
  · exact respondsOnce_refused s _
  · split
    · exact respondsOnce_withBlock _ fun _ _ => rfl
    · exact respondsOnce_refused s _

theorem execEvict_respondsOnce (victim incoming : Nat) (s : State) :
    RespondsOnce s (execEvict victim incoming s) := by
  refine respondsOnce_internal ?_
  split
  · exact respondsOnce_refused s _
  · split
    · exact respondsOnce_withBlock _ fun _ _ => rfl
    · exact respondsOnce_refused s _

/-! ### Every operation -/

theorem exec_respondsOnce (i : Instr) (s : State) : RespondsOnce s (exec i s) := by
  cases i with
  | construct v p sz init => exact execConstruct_respondsOnce v p sz init s
  | translate va => exact execTranslate_respondsOnce va s
  | pack frame present => exact respondsOnce_probe_ok fun _ => rfl
  | unpack entry => exact respondsOnce_probe_ok fun _ => rfl
  | fmtbin value width => exact execFmtbin_respondsOnce value width s
  | split va =>
    exact respondsOnce_probe_map (fun _ => rfl) fun b => failsWithError_checked _ Status.noConfusion
  | compose frame offset => exact respondsOnce_probe_ok fun _ => rfl
  | ptget page =>
    exact respondsOnce_probe_map Response.ofNat_info fun b =>
      failsWithError_checked _ Status.noConfusion
  | findfree => exact respondsOnce_probe_ok fun b => Response.ofOption_info b.findFree
  | selvict => exact execSelvict_respondsOnce s
  | rdcnt page =>
    exact respondsOnce_probe_map Response.ofNat_info fun b =>
      failsWithError_checked _ Status.noConfusion
  | rdfs frame =>
    exact respondsOnce_probe_map Response.ofNat_info fun b =>
      failsWithError_checked _ Status.noConfusion
  | rdreg sel =>
    exact respondsOnce_probe_map Response.ofNat_info fun b => b.readReg_failsWithError sel
  | snapshot => exact respondsOnce_probe_ok fun _ => rfl
  | ptbuild pageCount entryBits init => exact execPtbuild_respondsOnce pageCount entryBits init s
  | ptset page entry => exact execPtset_respondsOnce page entry s
  | evict victim incoming => exact execEvict_respondsOnce victim incoming s

/-- No operation writes the parameters. -/
theorem exec_params {s t : State} {i : Instr} (h : exec i s = .next t) : t.params = s.params := by
  obtain ⟨r, contents, -, rfl⟩ := exec_respondsOnce i s t h
  rfl

/-! ### Probes (20_memory.md R57) -/

/-- From `s` the operation `f` is refused, or gives a response that every state with the same
parameters and block would get, and only responds. -/
def AnswersFromBlock (f : State → Result) (s : State) : Prop :=
  (∃ r, ∀ s' : State, s'.params = s.params → s'.block = s.block → f s' = .next (s'.respond r)) ∨
    ∃ why, f s = .refused why

theorem answersFromBlock_probe (k : Block → Except OpError Response) (s : State) :
    AnswersFromBlock (fun s => s.probe k) s := by
  cases hb : s.block with
  | none => exact Or.inl ⟨_, fun s' _ hb' => State.probe_none (hb'.trans hb)⟩
  | some b =>
    cases hk : k b with
    | ok r => exact Or.inl ⟨r, fun s' _ hb' => State.probe_ok (hb'.trans hb) hk⟩
    | error e => exact Or.inl ⟨_, fun s' _ hb' => State.probe_error (hb'.trans hb) hk⟩

/-- FMTBIN reads the separator too, which is a parameter. -/
theorem execFmtbin_answersFromBlock (value width : Nat) (s : State) :
    AnswersFromBlock (execFmtbin value width) s := by
  cases hb : s.block with
  | none => exact Or.inl ⟨_, fun s' _ hb' => State.whenConfigured_none (hb'.trans hb)⟩
  | some b =>
    cases hd : fmtbinDomain value width with
    | true => exact Or.inl ⟨_, fun s' hp hb' => hp ▸ exec_fmtbin (hb'.trans hb) hd⟩
    | false => exact Or.inr ⟨_, exec_fmtbin_refused hb hd⟩

theorem exec_probe_answersFromBlock {i : Instr} (hi : i.opClass = .probe) (s : State) :
    AnswersFromBlock (exec i) s := by
  cases i with
  | fmtbin value width => exact execFmtbin_answersFromBlock value width s
  | construct v p sz init => cases hi
  | translate va => cases hi
  | ptbuild pageCount entryBits init => cases hi
  | ptset page entry => cases hi
  | evict victim incoming => cases hi
  | pack frame present =>
    exact answersFromBlock_probe (fun b => .ok (.ofNat (b.cfg.pack frame present))) s
  | unpack entry =>
    exact answersFromBlock_probe
      (fun b => .ok (.ofPair (b.cfg.frame entry) (boolResult (b.cfg.present entry)))) s
  | compose frame offset =>
    exact answersFromBlock_probe (fun b => .ok (.ofNat (b.cfg.compose frame offset))) s
  | findfree => exact answersFromBlock_probe (fun b => .ok (.ofOption b.findFree)) s
  | snapshot => exact answersFromBlock_probe (fun b => .ok (.ofList (.rows b.snapshot))) s
  | _ => exact answersFromBlock_probe _ s

/-! ### Operations turned away (92_eei_decisions.md D21, 00_scope.md R8) -/

theorem exec_ptset_refused {s : State} {b : Block} {page entry : Nat} (hb : s.block = some b)
    (hs : s.issuer = .block) (hready : b.ptSetReady page entry = false) :
    exec (.ptset page entry) s = .refused (.ptsetOutsidePrecondition page entry) := by
  simp [exec, execPtset, hs, hb, hready]

theorem exec_evict_refused {s : State} {b : Block} {victim incoming : Nat} (hb : s.block = some b)
    (hs : s.issuer = .block) (hready : b.evictReady victim incoming = false) :
    exec (.evict victim incoming) s = .refused (.evictOutsidePrecondition victim incoming) := by
  simp [exec, execEvict, hs, hb, hready]

/-- The limits are the last check: only sizes and entries that pass the others meet it. -/
theorem exec_construct_of_aboveLimit {s : State} {v p sz : Nat} {init : PageMap}
    (hcfg : (Cfg.mk v p sz).Valid)
    (hinit : ∀ pe ∈ init, pe.1 < (Cfg.mk v p sz).pageCount ∧ pe.2 < 2 ^ (Cfg.mk v p sz).entryBits)
    (hlim : aboveLimit s.params v p = true) :
    exec (.construct v p sz init) s = .next (s.raise (sizeLimitError v p)) := by
  simp [exec, execConstruct, constructBlock, sizeViolation_eq_none_iff.2 hcfg, ptBuild,
    entryViolation_eq_none_iff.2 hinit, hlim]

/-- CONSTRUCT reads nothing of the state but the parameters (10_state.md R36). -/
theorem execConstruct_eq_of_params {s s' : State} (h : s.params = s'.params) (v p sz : Nat)
    (init : PageMap) :
    (∃ e : OpError, e.status = .configError ∧ execConstruct v p sz init s = .next (s.raise e)) ∨
    ∃ (b : Block) (r : Response), execConstruct v p sz init s = .next ((s.withBlock b).respond r) ∧
      execConstruct v p sz init s' = .next ((s'.withBlock b).respond r) := by
  rcases execConstruct_cases v p sz init s with he | ⟨hsize, hlim, hentries, he⟩
  · exact Or.inl he
  · refine Or.inr ⟨_, _, he, ?_⟩
    have hbits : (Cfg.mk v p sz).entryBits - controlBits = (Cfg.mk v p sz).frameBits :=
      Nat.add_sub_cancel _ _
    rw [execConstruct, ← h]
    simp [constructBlock, hsize, ptBuild, hentries, hlim, hbits]

end Sys2Proof.Machine
end

section
/-!
The statements about reset, the step, and every completed or refused operation, settled.
-/

namespace Sys2Proof.Machine

/-- Settles O2: the parameters at reset are `Config.Params.spec`. -/
theorem resetParametersAreDefaults : Obligations.ResetParametersAreDefaults :=
  ⟨rfl, rfl, rfl, rfl, rfl, rfl, rfl⟩

/-- Settles O3: nothing stands between a decoded command that the port can carry and `exec`. -/
theorem stepRunsDecodedOperation : Obligations.StepRunsDecodedOperation :=
  fun _ _ _ _ hin hdec hport => step_of_decode_ok hin hdec hport

/-- Settles O4: the step's first branch. -/
theorem stepWaitsWithoutCommand : Obligations.StepWaitsWithoutCommand := by
  intro s hin
  rw [step, hin]

/-- Settles O20: each alternative denies one of PTSET's two preconditions. -/
theorem ptsetRefusedOutsidePreconditions : Obligations.PtsetRefusedOutsidePreconditions := by
  intro s b page entry hb hs hout
  refine exec_ptset_refused hb hs (Bool.eq_false_iff.2 fun hready => ?_)
  obtain ⟨hp, he⟩ := Block.ptSetReady_iff.1 hready
  exact hout.elim (Nat.not_le.2 hp) (Nat.not_le.2 he)

/-- Settles O27: each alternative denies one of EVICT's four preconditions. -/
theorem evictRefusedOutsidePreconditions : Obligations.EvictRefusedOutsidePreconditions := by
  intro s b victim incoming hb hs hout
  refine exec_evict_refused hb hs (Bool.eq_false_iff.2 fun hready => ?_)
  obtain ⟨hv, hi, hvp, hip⟩ := Block.evictReady_iff.1 hready
  rcases hout with hle | hle | hva | hia
  · exact absurd hv (Nat.not_lt.2 hle)
  · exact absurd hi (Nat.not_lt.2 hle)
  · exact Bool.noConfusion (hva.symm.trans hvp)
  · exact Bool.noConfusion (hip.symm.trans hia)

/-- Settles O39: the block and the response of a CONSTRUCT that commits are functions of its
operands and the parameters. -/
theorem constructForgetsThePast : Obligations.ConstructForgetsThePast := by
  intro s s' t t' v p sz init r hparams h hresp hok h'
  rcases execConstruct_eq_of_params hparams v p sz init with ⟨e, hstatus, he⟩ | ⟨b, r', he, he'⟩
  · cases he.symm.trans h
    obtain ⟨rfl, -⟩ := List.cons.inj hresp
    exact Status.noConfusion (hstatus.symm.trans hok)
  · cases he.symm.trans h
    cases he'.symm.trans h'
    obtain ⟨rfl, -⟩ := List.cons.inj hresp
    exact ⟨rfl, rfl, rfl⟩

/-- Settles O41: the operands pass every other check, so the limit is the one that answers. -/
theorem constructAboveLimitIsTurnedAway : Obligations.ConstructAboveLimitIsTurnedAway := by
  intro s v p sz init hsz hv hp hvs hps hinit ⟨m, hm⟩
  have hcfg : (Cfg.mk v p sz).Valid :=
    ⟨(isPow2_iff v).2 hv, (isPow2_iff p).2 hp, (isPow2_iff sz).2 hsz, hvs, hps⟩
  have hlim : aboveLimit s.params v p = true :=
    aboveLimit_eq_true_iff.2 (hm.imp (fun h => ⟨m, h⟩) fun h => ⟨m, h⟩)
  exact ⟨_, exec_construct_of_aboveLimit hcfg (by rwa [Cfg.entryBits_eq_log2]) hlim⟩

/-- Settles O46: `RespondsOnce`, field by field. -/
theorem everyOperationRespondsOnce : Obligations.EveryOperationRespondsOnce := by
  intro s t i h
  obtain ⟨r, contents, -, rfl⟩ := exec_respondsOnce i s t h
  exact ⟨⟨r, rfl⟩, rfl, rfl, rfl⟩

/-- Settles O48: responding changes neither the parameters nor the block, which are all a probe
reads. -/
theorem probesAreRepeatable : Obligations.ProbesAreRepeatable := by
  intro s t i hi h
  rcases exec_probe_answersFromBlock hi s with ⟨r, hr⟩ | ⟨why, hwhy⟩
  · cases (hr s rfl rfl).symm.trans h
    exact ⟨r, rfl, hr (s.respond r) rfl rfl⟩
  · cases hwhy.symm.trans h

/-- Settles O60: the one response of a completed operation is idle when silent. -/
theorem silentResponseCarriesFreeInfo : Obligations.SilentResponseCarriesFreeInfo := by
  intro s t i r h hresp hok hwarn
  obtain ⟨r', contents, hidle, rfl⟩ := exec_respondsOnce i s t h
  obtain ⟨rfl, -⟩ := List.cons.inj hresp
  exact hidle hok hwarn

end Sys2Proof.Machine
end

section
/-!
SUPPORT. Facts that the invariants of 10_state.md R27 and R29 share: what each path of a lookup does
to the presence and the frame of every page, and that each path, and a CONSTRUCT, gives a good block.
-/

namespace Sys2Proof

/-! ### The code of CONSTRUCT (30_encoding.md R90) -/

theorem Instr.eq_construct_of_opcode {i : Instr} (h : i.opcode = 0x00#5) :
    ∃ v p sz init, i = .construct v p sz init := by
  cases i with
  | construct v p sz init => exact ⟨v, p, sz, init, rfl⟩
  | _ => simp [Instr.opcode] at h

end Sys2Proof

namespace Sys2Proof.Machine

/-! ### Widths (10_state.md R27) -/

theorem fits_zero (w : Option Nat) : Config.fits w 0 = true := by
  cases w with
  | none => rfl
  | some w => simpa only [Config.fits, decide_eq_true_eq] using Nat.two_pow_pos w

/-- What a consistent choice of parameters says of a usage counter (assumption log 9). -/
theorem fits_of_params_wf {pr : Config.Params} (h : pr.wf = true) :
    Config.fits pr.cntBits 1 = true ∧ Config.fits pr.cntBits pr.initUsage = true := by
  simpa [Config.Params.wf] using h

/-- A packed entry leaves the reserved bits clear, so it fits a slot (10_state.md R25). -/
theorem Cfg.pack_lt (c : Cfg) (frame : Nat) (present : Bool) :
    c.pack frame present < 2 ^ c.entryBits := by
  refine Nat.lt_of_lt_of_le (packBits_lt c.frameBits frame present) ?_
  exact Nat.pow_le_pow_right (by omega) (by rw [Cfg.entryBits, controlBits]; omega)

/-! ### Presence and frame of every page along a lookup (44_translator.md R150) -/

@[simp] theorem Block.isPresent_hit (b : Block) (pr : Config.Params) (p q : Nat) :
    (b.hit pr p).isPresent q = b.isPresent q := rfl

@[simp] theorem Block.frameOf_hit (b : Block) (pr : Config.Params) (p q : Nat) :
    (b.hit pr p).frameOf q = b.frameOf q := rfl

@[simp] theorem Block.isPresent_countFault (b : Block) (pr : Config.Params) (q : Nat) :
    (b.countFault pr).isPresent q = b.isPresent q := rfl

@[simp] theorem Block.frameOf_countFault (b : Block) (pr : Config.Params) (q : Nat) :
    (b.countFault pr).frameOf q = b.frameOf q := rfl

theorem Block.isPresent_loadFree {b : Block} {p : Nat} (hp : p < b.pt.length) (f q : Nat) :
    (b.loadFree p f).isPresent q = if q = p then true else b.isPresent q := by
  rw [Block.isPresent, Block.entry_loadFree hp, Block.loadFree_cfg]
  split
  · exact Cfg.present_pack _ _ _
  · rfl

theorem Block.frameOf_loadFree {b : Block} {p f : Nat} (hc : b.cfg.Valid) (hp : p < b.pt.length)
    (hf : f < b.cfg.frameCount) (q : Nat) :
    (b.loadFree p f).frameOf q = if q = p then f else b.frameOf q := by
  rw [Block.frameOf, Block.entry_loadFree hp, Block.loadFree_cfg]
  split
  · exact Cfg.frame_pack_of_lt hc true hf
  · rfl

theorem Block.isPresent_evict {b : Block} {v i : Nat} (hv : v < b.pt.length)
    (hi : i < b.pt.length) (q : Nat) :
    (b.evict v i).isPresent q = if q = i then true else if q = v then false else b.isPresent q := by
  rw [Block.isPresent, Block.entry_evict hv hi, Block.evict_cfg]
  split
  · exact Cfg.present_pack _ _ _
  · split
    · exact presentBit_zero _
    · rfl

theorem Block.frameOf_evict {b : Block} {v i q : Nat} (hv : v < b.pt.length)
    (hi : i < b.pt.length) (hq : q ≠ v ∨ q = i) :
    (b.evict v i).frameOf q = if q = i then b.frameOf v else b.frameOf q := by
  rw [Block.frameOf, Block.entry_evict hv hi, Block.evict_cfg]
  split
  · exact b.frame_pack_frameOf v
  · next hqi => rw [if_neg (hq.resolve_right hqi), Block.frameOf]

/-! ### The paths of a lookup keep a block good (10_state.md R29) -/

theorem Block.Good.countFault {b : Block} {pr : Config.Params} (h : b.Good pr) :
    (b.countFault pr).Good pr := by
  obtain ⟨hcfg, hshape, hfit, hrange, hexact, hunused, hcnt, -⟩ := h
  exact ⟨hcfg, hshape, hfit, hrange, hexact, hunused, hcnt, fits_incW _ _⟩

/-- A hit writes one counter, of a present page. -/
theorem Block.Good.hit {b : Block} {pr : Config.Params} {vpn : Nat} (h : b.Good pr)
    (hlt : vpn < b.cfg.pageCount) (hp : b.isPresent vpn = true) : (b.hit pr vpn).Good pr := by
  obtain ⟨hcfg, ⟨hpt, hlen⟩, hfit, hrange, hexact, hunused, hcnt, hfaults⟩ := h
  have hcount := Block.count_hit (b := b) (pr := pr) (hlen ▸ hlt)
  refine ⟨hcfg, ⟨hpt, ?_⟩, hfit, hrange, hexact, fun q hq habsent => ?_, fun q hq => ?_, hfaults⟩
  · rw [Block.hit, Block.setCount_cnt, List.length_set, hlen, Block.setCount_cfg]
  · rw [Block.isPresent_hit] at habsent
    have hne : q ≠ vpn := by
      rintro rfl
      simp [hp] at habsent
    rw [hcount, if_neg hne]
    exact hunused q hq habsent
  · rw [hcount]
    split
    · exact fits_incW _ _
    · exact hcnt q hq

/-- A load makes the page present in the inserted frame and changes no other page. -/
theorem Block.Good.loadFree {b : Block} {pr : Config.Params} {vpn f : Nat} (h : b.Good pr)
    (hone : Config.fits pr.cntBits 1 = true) (hlt : vpn < b.cfg.pageCount)
    (habsent : b.isPresent vpn = false) (hf : f < b.cfg.frameCount) :
    (b.loadFree vpn f).Good pr := by
  obtain ⟨hcfg, ⟨hpt, hlen⟩, hfit, hrange, hexact, hunused, hcnt, hfaults⟩ := h
  have hentry := Block.entry_loadFree (b := b) (hpt ▸ hlt) f
  have hcount := Block.count_loadFree (b := b) (hlen ▸ hlt) f
  have hpresent := Block.isPresent_loadFree (b := b) (hpt ▸ hlt) f
  have hframe := Block.frameOf_loadFree hcfg (hpt ▸ hlt) hf
  refine ⟨hcfg, ⟨(b.loadFree_pt_length vpn f).trans hpt, (b.loadFree_cnt_length vpn f).trans hlen⟩,
    fun q hq => ?_, FrameSet.insert_lt hrange hf, fun g hg => ?_, fun q hq hqa => ?_,
    fun q hq => ?_, hfaults⟩
  · rw [hentry]
    split
    · exact b.cfg.pack_lt f true
    · exact hfit q hq
  · rw [Block.loadFree_fs, FrameSet.mem_insert, Bool.or_eq_true, decide_eq_true_eq]
    constructor
    · rintro (hmem | rfl)
      · obtain ⟨q, hq, hqp, rfl⟩ := (hexact g hg).1 hmem
        have hne : q ≠ vpn := by
          rintro rfl
          simp [habsent] at hqp
        exact ⟨q, hq, by rw [hpresent, if_neg hne, hqp], by rw [hframe, if_neg hne]⟩
      · exact ⟨vpn, hlt, by rw [hpresent, if_pos rfl], by rw [hframe, if_pos rfl]⟩
    · rintro ⟨q, hq, hqp, hqf⟩
      by_cases hqv : q = vpn
      · rw [hframe, if_pos hqv] at hqf
        exact Or.inr hqf
      · rw [hpresent, if_neg hqv] at hqp
        rw [hframe, if_neg hqv] at hqf
        exact Or.inl ((hexact g hg).2 ⟨q, hq, hqp, hqf⟩)
  · rw [hpresent] at hqa
    rw [hcount]
    split at hqa
    · cases hqa
    · next hne => rw [if_neg hne, hunused q hq hqa]
  · rw [hcount]
    split
    · exact hone
    · exact hcnt q hq

/-- An eviction hands the victim's frame to the incoming page, so the frames in use are the same. -/
theorem Block.Good.evict {b : Block} {pr : Config.Params} {victim vpn : Nat} (h : b.Good pr)
    (hone : Config.fits pr.cntBits 1 = true) (hlt : vpn < b.cfg.pageCount)
    (habsent : b.isPresent vpn = false) (hv : victim < b.cfg.pageCount)
    (hvp : b.isPresent victim = true) : (b.evict victim vpn).Good pr := by
  obtain ⟨hcfg, hshape, hfit, hrange, hexact, hunused, hcnt, hfaults⟩ := h
  have ⟨hpt, hlen⟩ := hshape
  have hentry := Block.entry_evict (b := b) (hpt ▸ hv) (hpt ▸ hlt)
  have hcount := Block.count_evict (b := b) (hlen ▸ hv) (hlen ▸ hlt)
  have hpresent := Block.isPresent_evict (b := b) (hpt ▸ hv) (hpt ▸ hlt)
  have hframe {q} := Block.frameOf_evict (b := b) (q := q) (hpt ▸ hv) (hpt ▸ hlt)
  refine ⟨hcfg, hshape.evict victim vpn, fun q hq => ?_, hrange, fun g hg => ?_,
    fun q hq hqa => ?_, fun q hq => ?_, hfaults⟩
  · rw [hentry]
    split
    · exact b.cfg.pack_lt _ true
    · split
      · exact Nat.two_pow_pos _
      · exact hfit q hq
  · rw [Block.evict_fs, hexact g hg]
    constructor
    · rintro ⟨q, hq, hqp, rfl⟩
      by_cases hqv : q = victim
      · exact ⟨vpn, hlt, by rw [hpresent, if_pos rfl], by rw [hframe (.inr rfl), if_pos rfl, hqv]⟩
      · have hne : q ≠ vpn := by
          rintro rfl
          simp [habsent] at hqp
        exact ⟨q, hq, by rw [hpresent, if_neg hne, if_neg hqv, hqp],
          by rw [hframe (.inl hqv), if_neg hne]⟩
    · rintro ⟨q, hq, hqp, hqf⟩
      by_cases hqi : q = vpn
      · rw [hframe (.inr hqi), if_pos hqi] at hqf
        exact ⟨victim, hv, hvp, hqf⟩
      · rw [hpresent, if_neg hqi] at hqp
        split at hqp
        · cases hqp
        · next hqv =>
          rw [hframe (.inl hqv), if_neg hqi] at hqf
          exact ⟨q, hq, hqp, hqf⟩
  · rw [hpresent] at hqa
    rw [hcount]
    split at hqa
    · cases hqa
    · next hqi =>
      rw [if_neg hqi]
      split at hqa
      · next hqv => rw [if_pos hqv]
      · next hqv => rw [if_neg hqv, hunused q hq hqa]
  · rw [hcount]
    split
    · exact hone
    · split
      · exact fits_zero _
      · exact hcnt q hq

/-- However a lookup of a valid page ends, it leaves the block good. -/
theorem Block.Good.lookup {b : Block} {pr : Config.Params} {vpn : Nat} (h : b.Good pr)
    (hone : Config.fits pr.cntBits 1 = true) (hlt : vpn < b.cfg.pageCount) :
    (b.lookup pr vpn).1.Good pr := by
  rcases b.lookup_cases pr vpn with
    ⟨hp, hl⟩ | ⟨ha, f, hf, hl⟩ | ⟨ha, -, v, hv, hl⟩ | ⟨-, -, -, hl⟩
  · exact hl ▸ h.hit hlt hp
  · exact hl ▸ h.countFault.loadFree hone hlt ha (Block.findFree_eq_some_iff.1 hf).1
  · obtain ⟨hvlt, hvp, -⟩ := Block.selVict_spec hv
    exact hl ▸ h.countFault.evict hone hlt ha hvlt hvp
  · exact hl ▸ h.countFault

/-! ### The block a CONSTRUCT installs is good (45_host_interface.md R160) -/

/-- Writing values below a bound into a table below it leaves it below. -/
theorem foldl_set_getD_lt {m : PageMap} {n : Nat} (hm : ∀ pe ∈ m, pe.2 < n) {t : List Nat}
    (ht : ∀ q, t.getD q 0 < n) (q : Nat) :
    (m.foldl (fun t pe => t.set pe.1 pe.2) t).getD q 0 < n := by
  induction m generalizing t with
  | nil => exact ht q
  | cons pe m ih =>
    obtain ⟨hpe, hm⟩ := List.forall_mem_cons.1 hm
    refine ih hm fun q => ?_
    have hq := ht q
    simp only [List.getD_eq_getElem?_getD, List.getElem?_set] at hq ⊢
    split
    · split
      · exact hpe
      · exact Nat.zero_lt_of_lt hpe
    · exact hq

theorem overlay_getD_lt {pc eb : Nat} {m : PageMap} (hm : ∀ pe ∈ m, pe.2 < 2 ^ eb) (q : Nat) :
    (overlay pc m).getD q 0 < 2 ^ eb := by
  refine foldl_set_getD_lt hm (fun q => ?_) q
  have hzero : (List.replicate pc 0).getD q 0 = 0 := overlay_getD_of_not_mem (m := []) (by simp)
  rw [hzero]
  exact Nat.two_pow_pos eb

theorem FrameSet.bits_lt {fs : FrameSet} {n : Nat} (h : ∀ f, fs.mem f = true → f < n) :
    fs.bits < 2 ^ n :=
  Nat.lt_pow_two_of_testBit _ fun f hf =>
    Bool.eq_false_iff.2 fun hmem => absurd (h f hmem) (Nat.not_lt.2 hf)

/-- A fresh block around a table in width is good. -/
theorem freshBlock_good {c : Cfg} {pr : Config.Params} {t : List Nat} (hc : c.Valid)
    (hpr : pr.wf = true) (hlen : t.length = c.pageCount)
    (hfit : ∀ q, t.getD q 0 < 2 ^ c.entryBits) : (freshBlock c pr.initUsage t).Good pr := by
  obtain ⟨-, hinit⟩ := fits_of_params_wf hpr
  have hcount {q} (hq : q < c.pageCount) :=
    Block.freshBlock_count c pr.initUsage (t := t) (q := q) (hlen ▸ hq)
  refine ⟨hc, ⟨hlen, (initialCounts_length c _ t).trans hlen⟩, fun q _ => hfit q, ?_, fun f hf => ?_,
    fun q hq habsent => ?_, fun q hq => ?_, fits_zero _⟩
  · refine FrameSet.bits_lt fun f hf => ?_
    obtain ⟨q, -, -, rfl⟩ := Block.freshBlock_mem_fs.1 hf
    exact Cfg.frame_lt hc _
  · rw [Block.freshBlock_mem_fs, hlen]
    rfl
  · rw [hcount hq, habsent]
    rfl
  · rw [hcount hq]
    split
    · exact hinit
    · exact fits_zero _

/-! ### Every operation of the host keeps a state good -/

/-- Only CONSTRUCT configures the block (10_state.md R22). -/
theorem exec_keeps_unconfigured {s t : State} {i : Instr} (hs : s.issuer = .host)
    (hb : s.block = none) (hi : i.opcode ≠ 0x00#5) (h : exec i s = .next t) : t.block = none := by
  by_cases hclass : i.opClass = .internal
  · cases (exec_internal_of_host hs hclass).symm.trans h
    exact hb
  · cases (exec_of_unconfigured hb hclass hi).symm.trans h
    exact hb

theorem execConstruct_keeps_good {s t : State} {v p sz : Nat} {init : PageMap} (hgood : s.Good)
    (h : execConstruct v p sz init s = .next t) : t.Good := by
  obtain ⟨hpr, hblock⟩ := hgood
  rcases execConstruct_cases v p sz init s with ⟨e, -, he⟩ | ⟨hsize, -, hentries, he⟩
  · cases he.symm.trans h
    exact ⟨hpr, hblock⟩
  · cases he.symm.trans h
    refine ⟨hpr, fun b hb => ?_⟩
    obtain rfl := Option.some.inj hb
    have hinit := entryViolation_eq_none_iff.1 hentries
    exact freshBlock_good (sizeViolation_eq_none_iff.1 hsize) hpr (overlay_length _ _)
      (overlay_getD_lt fun pe hpe => (hinit pe hpe).2)

/-- A configured block is left as it is, looked up in, or replaced by a fresh one. -/
theorem exec_keeps_good {s t : State} {i : Instr} (hs : s.issuer = .host) (hgood : s.Good)
    (h : exec i s = .next t) : t.Good := by
  by_cases hi : i.opcode = 0x00#5
  · obtain ⟨v, p, sz, init, rfl⟩ := Instr.eq_construct_of_opcode hi
    exact execConstruct_keeps_good hgood h
  · obtain ⟨hpr, hblock⟩ := hgood
    have hparams : t.params = s.params := exec_params h
    refine ⟨hparams ▸ hpr, fun b' hb' => hparams ▸ ?_⟩
    cases hb : s.block with
    | none => cases (exec_keeps_unconfigured hs hb hi h).symm.trans hb'
    | some b =>
      have hbgood : b.Good s.params := hblock b hb
      rcases exec_block_cases hs hb hi h with ⟨ht, -⟩ | ⟨va, -, hlt, ht⟩
      · cases ht.symm.trans hb'
        exact hbgood
      · cases ht.symm.trans hb'
        exact hbgood.lookup (fits_of_params_wf hpr).1 hlt

/-! ### Present pages that share no frame (10_state.md R29 item 4) -/

/-- In a fresh block that PTBUILD does not warn of no two present pages share a frame. -/
theorem freshBlock_noAlias {c : Cfg} {u : Nat} {t : List Nat} (hlen : t.length = c.pageCount)
    (hsilent : (duplicateClaim c.frameBits t).isSome = false) : (freshBlock c u t).NoAlias := by
  intro p hp q hq ⟨hne, hpp, hqp⟩ hsame
  refine Bool.eq_false_iff.1 hsilent (duplicateClaim_isSome_iff.2 ?_)
  exact ⟨p, q, hlen ▸ hp, hlen ▸ hq, hne, hpp, hqp, hsame⟩

/-- A frame that is not in `FS` is the frame of no present page, so a page loaded
into it shares it with none. -/
theorem Block.NoAlias.loadFree {b : Block} {pr : Config.Params} {vpn f : Nat} (h : b.NoAlias)
    (hgood : b.Good pr) (hlt : vpn < b.cfg.pageCount) (hf : f < b.cfg.frameCount)
    (hfree : b.fs.mem f = false) : (b.loadFree vpn f).NoAlias := by
  obtain ⟨hcfg, ⟨hpt, -⟩, -, -, hexact, -⟩ := hgood
  have hpresent := Block.isPresent_loadFree (b := b) (hpt ▸ hlt) f
  have hframe := Block.frameOf_loadFree hcfg (hpt ▸ hlt) hf
  have hunclaimed : ∀ q, q < b.cfg.pageCount → b.isPresent q = true → b.frameOf q ≠ f := by
    intro q hq hqp hqf
    simp [(hexact f hf).2 ⟨q, hq, hqp, hqf⟩] at hfree
  intro p hp q hq ⟨hne, hpp, hqp⟩
  rw [hpresent] at hpp hqp
  rw [hframe, hframe]
  by_cases hpv : p = vpn
  · have hqv : q ≠ vpn := fun hqv => hne (hpv.trans hqv.symm)
    rw [if_neg hqv] at hqp
    rw [if_pos hpv, if_neg hqv]
    exact (hunclaimed q hq hqp).symm
  · rw [if_neg hpv] at hpp
    rw [if_neg hpv]
    split at hqp
    · next hqv =>
      rw [if_pos hqv]
      exact hunclaimed p hp hpp
    · next hqv =>
      rw [if_neg hqv]
      exact h p hp q hq ⟨hne, hpp, hqp⟩

/-- The incoming page takes the victim's place among the frames, and the victim is absent. -/
theorem Block.NoAlias.evict {b : Block} {victim vpn : Nat} (h : b.NoAlias) (hshape : b.Shaped)
    (hlt : vpn < b.cfg.pageCount) (hv : victim < b.cfg.pageCount)
    (hvp : b.isPresent victim = true) : (b.evict victim vpn).NoAlias := by
  obtain ⟨hpt, -⟩ := hshape
  have hpresent := Block.isPresent_evict (b := b) (hpt ▸ hv) (hpt ▸ hlt)
  have hframe {q} := Block.frameOf_evict (b := b) (q := q) (hpt ▸ hv) (hpt ▸ hlt)
  have hother : ∀ q, q < b.cfg.pageCount → q ≠ vpn → (b.evict victim vpn).isPresent q = true →
      q ≠ victim ∧ b.isPresent q = true ∧ (b.evict victim vpn).frameOf q = b.frameOf q := by
    intro q hq hqi hqp
    rw [hpresent, if_neg hqi] at hqp
    split at hqp
    · cases hqp
    · next hqv => exact ⟨hqv, hqp, by rw [hframe (.inl hqv), if_neg hqi]⟩
  have hincoming : (b.evict victim vpn).frameOf vpn = b.frameOf victim := by
    rw [hframe (.inr rfl), if_pos rfl]
  intro p hp q hq ⟨hne, hpp, hqp⟩
  by_cases hpi : p = vpn
  · obtain ⟨hqv, hqp, hqf⟩ := hother q hq (fun hqi => hne (hpi.trans hqi.symm)) hqp
    rw [hpi, hincoming, hqf]
    exact h victim hv q hq ⟨hqv.symm, hvp, hqp⟩
  · obtain ⟨hpv, hpp, hpf⟩ := hother p hp hpi hpp
    rw [hpf]
    by_cases hqi : q = vpn
    · rw [hqi, hincoming]
      exact h p hp victim hv ⟨hpv, hpp, hvp⟩
    · obtain ⟨hqv, hqp, hqf⟩ := hother q hq hqi hqp
      rw [hqf]
      exact h p hp q hq ⟨hne, hpp, hqp⟩

theorem Block.NoAlias.lookup {b : Block} {pr : Config.Params} {vpn : Nat} (h : b.NoAlias)
    (hgood : b.Good pr) (hlt : vpn < b.cfg.pageCount) : (b.lookup pr vpn).1.NoAlias := by
  have hfault : (b.countFault pr).NoAlias := h
  rcases b.lookup_cases pr vpn with
    ⟨-, hl⟩ | ⟨-, f, hf, hl⟩ | ⟨-, -, v, hv, hl⟩ | ⟨-, -, -, hl⟩
  · exact hl ▸ h
  · obtain ⟨hfc, hfree, -⟩ := Block.findFree_eq_some_iff.1 hf
    exact hl ▸ hfault.loadFree hgood.countFault hlt hfc hfree
  · obtain ⟨hvlt, hvp, -⟩ := Block.selVict_spec hv
    obtain ⟨-, hshape, -⟩ := hgood.countFault
    exact hl ▸ hfault.evict hshape hlt hvlt hvp
  · exact hl ▸ h

/-! ### The number of resident pages (10_state.md R29 item 4, 70_reset_and_hazards.md R219) -/

/-- The present pages, as a set. -/
def Block.presentPages (b : Block) : Finset Nat :=
  (Finset.range b.cfg.pageCount).filter fun p => b.isPresent p = true

theorem Block.mem_presentPages {b : Block} {p : Nat} :
    p ∈ b.presentPages ↔ p < b.cfg.pageCount ∧ b.isPresent p = true := by
  simp [Block.presentPages]

theorem countP_range_eq_card (p : Nat → Bool) (n : Nat) :
    (List.range n).countP p = ((Finset.range n).filter fun k => p k = true).card := by
  simp [Finset.card_def, Multiset.range, List.countP_eq_length_filter]

theorem Block.residents_eq_card (b : Block) : b.residents = b.presentPages.card :=
  countP_range_eq_card _ _

theorem Block.residents_loadFree {b : Block} {vpn : Nat} (hshape : b.Shaped)
    (hlt : vpn < b.cfg.pageCount) (habsent : b.isPresent vpn = false) (f : Nat) :
    (b.loadFree vpn f).residents = b.residents + 1 := by
  obtain ⟨hpt, -⟩ := hshape
  have hnew : vpn ∉ b.presentPages := by
    simp [Block.mem_presentPages, habsent]
  have hpages : (b.loadFree vpn f).presentPages = insert vpn b.presentPages := by
    ext q
    rw [Block.mem_presentPages, Finset.mem_insert, Block.mem_presentPages,
      Block.isPresent_loadFree (hpt ▸ hlt), Block.loadFree_cfg]
    by_cases hq : q = vpn
    · simp [hq, hlt]
    · simp [hq]
  rw [Block.residents_eq_card, hpages, Finset.card_insert_of_notMem hnew, Block.residents_eq_card]

theorem Block.residents_evict {b : Block} {victim vpn : Nat} (hshape : b.Shaped)
    (hlt : vpn < b.cfg.pageCount) (habsent : b.isPresent vpn = false)
    (hv : victim < b.cfg.pageCount) (hvp : b.isPresent victim = true) :
    (b.evict victim vpn).residents = b.residents := by
  obtain ⟨hpt, -⟩ := hshape
  have hold : victim ∈ b.presentPages := Block.mem_presentPages.2 ⟨hv, hvp⟩
  have hnew : vpn ∉ b.presentPages.erase victim := by
    simp [Block.mem_presentPages, habsent]
  have hpages : (b.evict victim vpn).presentPages = insert vpn (b.presentPages.erase victim) := by
    ext q
    rw [Block.mem_presentPages, Finset.mem_insert, Finset.mem_erase, Block.mem_presentPages,
      Block.isPresent_evict (hpt ▸ hv) (hpt ▸ hlt), Block.evict_cfg]
    by_cases hq : q = vpn
    · simp [hq, hlt]
    · by_cases hqv : q = victim
      · subst hqv
        simp [hq]
      · simp [hq, hqv]
  rw [Block.residents_eq_card, hpages, Finset.card_insert_of_notMem hnew,
    Finset.card_erase_add_one hold, Block.residents_eq_card]

/-- A lookup adds a resident page, or keeps the number; without a free frame it keeps it. -/
theorem Block.residents_lookup {b : Block} {vpn : Nat} (pr : Config.Params) (hshape : b.Shaped)
    (hlt : vpn < b.cfg.pageCount) :
    b.residents ≤ (b.lookup pr vpn).1.residents ∧
      (b.findFree = none → (b.lookup pr vpn).1.residents = b.residents) := by
  have hfault : (b.countFault pr).residents = b.residents := rfl
  rcases b.lookup_cases pr vpn with
    ⟨-, hl⟩ | ⟨ha, f, hf, hl⟩ | ⟨ha, -, v, hv, hl⟩ | ⟨-, -, -, hl⟩
  · rw [hl]
    exact ⟨Nat.le_refl _, fun _ => rfl⟩
  · have hload : ((b.countFault pr).loadFree vpn f).residents = b.residents + 1 :=
      Block.residents_loadFree hshape hlt ha f
    rw [hl]
    refine ⟨hload ▸ Nat.le_succ _, fun hnone => ?_⟩
    cases hnone.symm.trans hf
  · obtain ⟨hvlt, hvp, -⟩ := Block.selVict_spec hv
    have hevict : ((b.countFault pr).evict v vpn).residents = b.residents :=
      Block.residents_evict hshape hlt ha hvlt hvp
    rw [hl]
    exact ⟨hevict.ge, fun _ => hevict⟩
  · rw [hl]
    exact ⟨hfault.ge, fun _ => hfault⟩

/-- On a good block the frames in `FS` are the frames of the present pages. -/
theorem Block.Good.image_frameOf {b : Block} {pr : Config.Params} (h : b.Good pr) :
    b.presentPages.image b.frameOf =
      (Finset.range b.cfg.frameCount).filter fun f => b.fs.mem f = true := by
  obtain ⟨hcfg, -, -, -, hexact, -⟩ := h
  ext f
  simp only [Finset.mem_image, Block.mem_presentPages, Finset.mem_filter, Finset.mem_range]
  constructor
  · rintro ⟨p, ⟨hp, hpp⟩, rfl⟩
    have hf : b.frameOf p < b.cfg.frameCount := Cfg.frame_lt hcfg _
    exact ⟨hf, (hexact _ hf).2 ⟨p, hp, hpp, rfl⟩⟩
  · rintro ⟨hf, hmem⟩
    obtain ⟨p, hp, hpp, hpf⟩ := (hexact f hf).1 hmem
    exact ⟨p, ⟨hp, hpp⟩, hpf⟩

theorem Block.NoAlias.injOn_frameOf {b : Block} (h : b.NoAlias) :
    Set.InjOn b.frameOf b.presentPages := by
  intro p hp q hq hsame
  obtain ⟨hp, hpp⟩ := Block.mem_presentPages.1 hp
  obtain ⟨hq, hqp⟩ := Block.mem_presentPages.1 hq
  exact Classical.byContradiction fun hne => h p hp q hq ⟨hne, hpp, hqp⟩ hsame

/-! ### The step on a command (00_scope.md R13) -/

/-- A step that completes on a command answers it as unassigned or runs its operation. -/
theorem step_cons_cases {s t : State} {c : Command} {rest : List Command}
    (hin : s.inbox = c :: rest) (h : step s = .next t) :
    (∃ op, t = (s.accept rest).raise (.illegalOp op)) ∨
      ∃ i, i.opcode = c.op ∧ exec i (s.accept rest) = .next t := by
  rcases step_cases h with ⟨hnil, -⟩ | ⟨c', rest', hin', hrun⟩
  · simp [hin] at hnil
  · obtain ⟨rfl, rfl⟩ := List.cons.inj (hin.symm.trans hin')
    rcases hrun with ⟨op, -, ht⟩ | ⟨i, hdec, -, hexec⟩
    · exact Or.inl ⟨op, ht⟩
    · exact Or.inr ⟨i, opcode_of_decode hdec, hexec⟩

end Sys2Proof.Machine
end

section
/-!
The invariants of 10_state.md R27 and R29 and the rule of 70_reset_and_hazards.md R219, settled.
-/

namespace Sys2Proof.Machine

/-- Settles O57: waiting, taking the command and answering ILLEGAL_OP leave the block and the
parameters, and every operation of the host keeps them good. -/
theorem stepKeepsGood : Obligations.StepKeepsGood := by
  intro s t hgood h
  have haccept : ∀ rest, (s.accept rest).Good := fun _ => hgood
  rcases step_cases h with ⟨-, rfl⟩ | ⟨c, rest, -, ⟨op, -, rfl⟩ | ⟨i, -, -, hexec⟩⟩
  · exact hgood
  · exact hgood
  · exact exec_keeps_good (State.accept_issuer s rest) (haccept rest) hexec

/-- Settles O58: without a warning no frame of the fresh block is shared, and of the other commands
only a TRANSLATE writes the block, by a lookup. -/
theorem stepKeepsNoAlias : Obligations.StepKeepsNoAlias := by
  refine ⟨fun s t v p sz init r b h hresp hok hwarn hb => ?_,
    fun s t c rest b hgood hin hop hb halias h => ?_⟩
  · have hexec : execConstruct v p sz init s = .next t := h
    rcases execConstruct_cases v p sz init s with ⟨e, hstatus, he⟩ | ⟨-, -, -, he⟩
    · cases he.symm.trans hexec
      obtain ⟨rfl, -⟩ := List.cons.inj hresp
      exact Status.noConfusion (hstatus.symm.trans hok)
    · cases he.symm.trans hexec
      obtain ⟨rfl, -⟩ := List.cons.inj hresp
      obtain rfl := Option.some.inj hb
      exact freshBlock_noAlias (overlay_length _ _) (by rwa [Response.ofWarning_warn] at hwarn)
  · obtain ⟨-, hblock⟩ := hgood
    rcases step_cons_cases hin h with ⟨op, rfl⟩ | ⟨i, hcode, hexec⟩
    · exact ⟨b, hb, halias⟩
    · rcases exec_block_cases (State.accept_issuer s rest) hb (hcode ▸ hop) hexec with
        ⟨ht, -⟩ | ⟨va, -, hlt, ht⟩
      · exact ⟨b, ht, halias⟩
      · exact ⟨_, ht, halias.lookup (hblock b hb) hlt⟩

/-- Settles O54: only a lookup writes the block, and it frees a page only to fill another. -/
theorem residentsNeverDecrease : Obligations.ResidentsNeverDecrease := by
  intro s t b i hs hb ⟨_, hshape, _⟩ hi h
  rcases exec_block_cases hs hb hi h with ⟨ht, -⟩ | ⟨va, -, hlt, ht⟩
  · exact ⟨b, ht, Nat.le_refl _, fun _ => rfl⟩
  · obtain ⟨hle, hkeep⟩ := Block.residents_lookup s.params hshape hlt
    exact ⟨_, ht, hle, fun hfull => hkeep (Block.findFree_eq_none_iff.2 hfull)⟩

/-- Settles O59: when no frame is shared, the frame is a one-to-one map from the present pages onto
`FS`. -/
theorem residentsEqualFramesWithoutAlias : Obligations.ResidentsEqualFramesWithoutAlias := by
  intro b pr hgood halias
  have ⟨_, _, _, hrange, _⟩ := hgood
  calc b.residents
      = b.presentPages.card := b.residents_eq_card
    _ = (b.presentPages.image b.frameOf).card :=
        (Finset.card_image_of_injOn halias.injOn_frameOf).symm
    _ = (List.range b.cfg.frameCount).countP b.fs.mem := by
        rw [hgood.image_frameOf, countP_range_eq_card]
    _ = b.fs.card := (FrameSet.card_eq_countP hrange).symm

/-- Settles O56: the default parameters are consistent, and there is no block to be good. -/
theorem resetIsGood : Obligations.ResetIsGood :=
  ⟨rfl, fun _ hb => nomatch hb⟩

end Sys2Proof.Machine
end

section
/-!
SUPPORT. Facts that the statements of 44_translator.md R152 and 42_frame_allocator.md R131 share:
what a successful lookup leaves of its page, and the hit that follows it.
-/

namespace Sys2Proof.Machine

/-- After a lookup that answers a frame the page is present in that frame; the page table and the
configuration it stands in are of the same shape. -/
theorem Block.lookup_ok_page {b b' : Block} {pr : Config.Params} {vpn f : Nat} (hc : b.cfg.Valid)
    (hshape : b.Shaped) (hlt : vpn < b.cfg.pageCount) (h : b.lookup pr vpn = (b', .ok f)) :
    b'.cfg = b.cfg ∧ b'.isPresent vpn = true ∧ b'.frameOf vpn = f := by
  obtain ⟨hpt, -⟩ := hshape
  rcases b.lookup_cases pr vpn with
    ⟨hp, hl⟩ | ⟨-, g, hfree, hl⟩ | ⟨-, -, v, hv, hl⟩ | ⟨-, -, -, hl⟩
  · cases h.symm.trans hl
    exact ⟨rfl, hp, rfl⟩
  · cases h.symm.trans hl
    have hvpn : vpn < (b.countFault pr).pt.length := hpt ▸ hlt
    obtain ⟨hf, -⟩ := Block.findFree_eq_some_iff.1 hfree
    exact ⟨rfl, by rw [Block.isPresent_loadFree hvpn, if_pos rfl],
      by rw [Block.frameOf_loadFree (b := b.countFault pr) hc hvpn hf, if_pos rfl]⟩
  · cases h.symm.trans hl
    have hvpn : vpn < (b.countFault pr).pt.length := hpt ▸ hlt
    have hvictim : v < (b.countFault pr).pt.length := hpt ▸ (Block.selVict_spec hv).1
    exact ⟨rfl, by rw [Block.isPresent_evict hvictim hvpn, if_pos rfl],
      by rw [Block.frameOf_evict hvictim hvpn (.inr rfl), if_pos rfl]; rfl⟩
  · cases h.symm.trans hl

/-- After a TRANSLATE that ends OK, a TRANSLATE of an address of the same page is a hit in the same
frame. -/
theorem exec_translate_after_ok {s t : State} {b : Block} {va va' : Nat} {r : Response}
    (hb : s.block = some b) (hc : b.cfg.Valid) (hshape : b.Shaped)
    (hpage : b.cfg.vpn va' = b.cfg.vpn va) (h : exec (.translate va) s = .next t)
    (hresp : t.responses = r :: s.responses) (hok : r.status = .ok) :
    ∃ (b1 : Block) (f : Nat), t.block = some b1 ∧ b1.isPresent (b.cfg.vpn va) = true ∧
      r.res0 = b.cfg.compose f (b.cfg.offset va) ∧
      exec (.translate va') t = .next ((t.withBlock (b1.hit s.params (b.cfg.vpn va))).respond
        (.ofNat (b.cfg.compose f (b.cfg.offset va')))) := by
  obtain ⟨hlt, b1, f, hl, rfl, ht⟩ := exec_translate_ok hb h hresp hok
  have hb1 : t.block = some b1 := by rw [ht, State.respond_block, State.withBlock_block]
  obtain ⟨hcfg, hpresent, hframe⟩ := Block.lookup_ok_page hc hshape hlt hl
  refine ⟨b1, f, hb1, hpresent, rfl, ?_⟩
  have hvpn : b1.cfg.vpn va' = b.cfg.vpn va := by rw [hcfg, hpage]
  have hhit := Block.lookup_of_present t.params (hvpn ▸ hpresent)
  rw [exec_translate_of_lookup_ok hb1 (by rwa [hvpn, hcfg]) hhit, hvpn, hframe, hcfg, exec_params h]

end Sys2Proof.Machine
end

section
/-!
The statements of 44_translator.md R152 and 42_frame_allocator.md R131, settled.
-/

namespace Sys2Proof.Machine

/-- Settles O33: the second TRANSLATE is the hit `exec_translate_after_ok` gives for the same
address. -/
theorem translateAgainIsAHit : Obligations.TranslateAgainIsAHit := by
  intro s t b va r hb hc hshape h hresp hok
  obtain ⟨b1, f, ht, hpresent, hres, hexec⟩ := exec_translate_after_ok hb hc hshape rfl h hresp hok
  rw [Cfg.vpn_eq_div_s hc] at hpresent hexec
  refine ⟨b1, ht, hpresent, ?_⟩
  rw [hexec, hres, Block.hit_eq]
  rfl

/-- Settles O34: both answers compose the same frame, each with the offset of its own address. -/
theorem samePageSharesFrame : Obligations.SamePageSharesFrame := by
  intro s t b va va' r hb hc hshape hpage h hresp hok
  have hvpn : b.cfg.vpn va' = b.cfg.vpn va := by
    rw [Cfg.vpn_eq_div_s hc, Cfg.vpn_eq_div_s hc, hpage]
  obtain ⟨b1, f, -, -, hres, hexec⟩ := exec_translate_after_ok hb hc hshape hvpn h hresp hok
  have haddr : r.res0 - va % b.cfg.s + va' % b.cfg.s = b.cfg.compose f (b.cfg.offset va') := by
    rw [hres, Cfg.compose_eq_mul_add hc (Cfg.offset_lt hc va),
      Cfg.compose_eq_mul_add hc (Cfg.offset_lt hc va'), Cfg.offset_eq_mod_s hc,
      Cfg.offset_eq_mod_s hc, Nat.add_sub_cancel]
  refine ⟨_, hexec, ?_⟩
  rw [haddr]
  rfl

/-- Settles O23: frame `k` is the lowest-numbered free one, and the load inserts it alone. -/
theorem framesHandedOutInOrder : Obligations.FramesHandedOutInOrder := by
  intro s b va k hb hc hbound hk hlt habsent
  rw [← Cfg.vpn_eq_div_s hc] at hlt habsent
  have hfree : b.findFree = some k :=
    Block.findFree_eq_some_iff.2 ⟨hk, Bool.eq_false_iff.2 fun hmem =>
      Nat.lt_irrefl k ((hbound k).1 hmem), fun g hg => (hbound g).2 hg⟩
  have hl := Block.lookup_of_findFree s.params habsent hfree
  refine ⟨(b.countFault s.params).loadFree (b.cfg.vpn va) k, ?_, fun f => ?_⟩
  · rw [exec_translate_of_lookup_ok hb hlt hl, Cfg.compose_eq_mul_add hc (Cfg.offset_lt hc va),
      Cfg.offset_eq_mod_s hc]
    rfl
  · rw [Block.loadFree_fs, FrameSet.mem_insert, Bool.or_eq_true, decide_eq_true_eq,
      Block.countFault_fs, hbound, Nat.lt_succ_iff_lt_or_eq, eq_comm]

end Sys2Proof.Machine
end
